-- ==== Sys2Proof/Word.lean ====
section
/-! DEFINITION. The machine's words: 8-bit bytes, 32-bit registers and linear addresses, 36-bit
physical addresses, 64-bit model-specific registers (spec/00_scope.md R6, R8). -/

namespace Sys2Proof

/-- A byte is 8 bits (R8). -/
abbrev Byte := BitVec 8

/-- A general register or the instruction pointer: 32 bits (R10, R12). The control registers are given the same
width, which no rule states: PRESUMED (log 42). -/
abbrev Word := BitVec 32

/-- A model-specific register: 64 bits (R20). -/
abbrev QWord := BitVec 64

/-- A linear address: 32 bits (R6 `LINEAR_BITS`, R32). -/
abbrev LinAddr := BitVec 32

/-- A physical address: 36 bits (R6 `PHYS_BITS`, R33). -/
abbrev PhysAddr := BitVec 36

end Sys2Proof
end

