-- ==== Sys2Proof/Syntax.lean ====
section
/-! DEFINITION. The instructions: one constructor per row of spec/opcode_table.json. No instruction has a
written operand (spec/30_encoding.md R82). -/

namespace Sys2Proof

/-- The three instructions of the opcode map (R81). -/
inductive Instr where
  | cpuid   -- CPUID, `0F A2`, R86
  | rdmsr   -- RDMSR, `0F 32`, R88
  | wrmsr   -- WRMSR, `0F 30`, R89
  deriving DecidableEq, Repr, Inhabited

end Sys2Proof
end

