-- ==== Sys2Proof/WellFormed.lean ====
section
/-! DEFINITION. Well-formed instructions. Every operand is an implicit register (spec/30_encoding.md R82),
so there is no field whose range could be left and every instruction is well-formed. -/

namespace Sys2Proof

/-- No instruction has an immediate, a displacement, a register field or a memory operand (R82): there is
nothing to check, and one arm per constructor says so. -/
def Instr.wf : Instr → Bool
  | .cpuid => true
  | .rdmsr => true
  | .wrmsr => true

end Sys2Proof
end

