-- ==== Sys2Proof/Decode.lean ====
section
/-! DEFINITION. The decoder, total on any bytes and refusing by name, and the encoder
(spec/30_encoding.md R79 to R84). The byte pairs are from general knowledge (R80, R81; log 9). -/

namespace Sys2Proof

/-- Why bytes are not decoded. -/
inductive DecodeError where
  /-- Fewer than two bytes: an instruction is exactly two bytes long (R80). Safe. -/
  | truncated
  /-- A byte pair outside the opcode map of R81, "not in any source" (R79, R83); a pair that begins with
  a further byte before `0F` is one of these. Safe: the model stops where hardware may go on. -/
  | notInAnySource (b0 b1 : Byte)
  deriving DecidableEq, Repr, Inhabited

/-- Length of every instruction in bytes (R80). -/
def instrLength : Nat := 2

/-- Read one instruction from the front of a list of bytes, lowest address first (R81, R84), and return
it with the bytes that follow it. -/
def decode : List Byte → Except DecodeError (Instr × List Byte)
  | [] => .error .truncated
  | [_] => .error .truncated
  | b0 :: b1 :: rest =>
    if b0 = 0x0F#8 then
      if b1 = 0xA2#8 then .ok (.cpuid, rest)
      else if b1 = 0x32#8 then .ok (.rdmsr, rest)
      else if b1 = 0x30#8 then .ok (.wrmsr, rest)
      else .error (.notInAnySource b0 b1)
    else .error (.notInAnySource b0 b1)

/-- The bytes of an instruction, lowest address first (R81). -/
def encode : Instr → List Byte
  | .cpuid => [0x0F#8, 0xA2#8]
  | .rdmsr => [0x0F#8, 0x32#8]
  | .wrmsr => [0x0F#8, 0x30#8]

/-- The bytes, in address order, of an instruction whose pattern is written as the number `w` of `nbits`
bits: byte 0 is the more significant byte (R81, "`match` and `mask` as 16-bit numbers in which byte 0 is
the more significant byte"). The bytes above `nbits` are zero, up to the longest instruction. -/
def tableBytes (nbits w : Nat) : List Byte :=
  let k := nbits / 8
  (List.range k).map (fun i => BitVec.ofNat 8 (w >>> (8 * (k - 1 - i)))) ++
    List.replicate (instrLength - k) 0x00#8

/-- The instruction the decoder reads from the opcode table's number `w` of `nbits` bits. -/
def decodeTableWord (nbits w : Nat) : Option Instr :=
  match decode (tableBytes nbits w) with
  | .ok (i, _) => some i
  | .error _ => none

end Sys2Proof
end

