-- ==== Sys2Proof/Config.lean ====
section
/-! DEFINITION. What an implementation fixes and what the spec leaves open (spec/00_scope.md R6): the
enumerations of memory types, page sizes and accesses, the two feature constants, and the open
parameters and free values, each an opaque constant that nothing can evaluate. -/

namespace Sys2Proof

/-- A memory type a PAT field can hold (R61). -/
inductive PatType where
  | uc | wc | wt | wp | wb | ucMinus
  deriving DecidableEq, Repr, Inhabited

/-- A memory type the MTRRs can give: the encodings of R61 without 7 (R25). -/
inductive MtrrType where
  | uc | wc | wt | wp | wb
  deriving DecidableEq, Repr, Inhabited

/-- An effective memory type (R63). `uc` is the UC whose flavour, UC_PAGE or UC_MTRR, the spec does not
state (R65, R66). -/
inductive EffType where
  | ucPage | ucMtrr | uc | wc | wt | wp | wb
  deriving DecidableEq, Repr, Inhabited

/-- Page sizes of Table 3-1 (R37). -/
inductive PageSize where
  | k4 | m2 | m4
  deriving DecidableEq, Repr, Inhabited

/-- The level of a paging-structure entry: page-directory-pointer-table entry, page-directory entry,
page-table entry. -/
inductive Level where
  | pdpte | pde | pte
  deriving DecidableEq, Repr, Inhabited

/-- What an access does: an instruction fetch, a data read or a data write. -/
inductive Access where
  | fetch | read | write
  deriving DecidableEq, Repr, Inhabited

/-- What CPUID with `EAX = 1` returns, but for bits 17 and 16 of `edx` (R6 `CpuidLeaf1`). -/
structure CpuidLeaf where
  eax : Word
  ebx : Word
  ecx : Word
  edx : Word
  deriving DecidableEq, Repr, Inhabited

/-- What the parameter PermCheck may look at (R42, R44, R51): the entry (a 4-byte entry extended with
zeros), its level, the linear address, the access and the privilege level. -/
structure PermKey where
  level : Level
  entry : QWord
  la : LinAddr
  access : Access
  cpl : BitVec 2
  deriving DecidableEq, Repr, Inhabited

/-- What the parameter AccessedDirtyUpdate may look at (R42): the entry, its level, the access, and
whether the walk completed; `completed = false` is the update at a level above a failing entry (R99). -/
structure AdKey where
  level : Level
  entry : QWord
  access : Access
  completed : Bool
  deriving DecidableEq, Repr, Inhabited

/-- The accessed and dirty bits an entry holds after AccessedDirtyUpdate. -/
structure AdBits where
  accessed : Bool
  dirty : Bool
  deriving DecidableEq, Repr, Inhabited

/-- The addresses the PAE walk forms in ways the spec does not give (R52): the address of each entry
from what points to it, and the page address from the entry that maps the page. -/
inductive PaeKey where
  | pdpteAt (cr3 : Word) (la : LinAddr)
  | pdeAt (pdpte : QWord) (la : LinAddr)
  | pteAt (pde : QWord) (la : LinAddr)
  | page2M (pde : QWord)
  | page4K (pte : QWord)
  deriving DecidableEq, Repr, Inhabited

/-- An 8-byte entry at its level, for the reserved bits of PAE entries the spec does not describe (R47,
R52). -/
structure PaeEntry where
  level : Level
  entry : QWord
  deriving DecidableEq, Repr, Inhabited

namespace Config

/-- This hardware supports 36-bit PSE (R6 `HAS_PSE36`). -/
def hasPse36 : Bool := true

/-- This hardware supports the PAT (R6 `HAS_PAT`). -/
def hasPat : Bool := true

/-- R6 `CpuidLeaf1`, any value. -/
opaque cpuidLeaf1 : CpuidLeaf

/-- The n-th free 32-bit value, R9 `unspecified(32)`. -/
opaque freeWord : Nat → Word

/-- The n-th free byte: what a read returns where the spec leaves the result undefined (R114, R115). -/
opaque freeByte : Nat → Byte

/-- The n-th free choice between behaviours the spec allows (R29, R62, R65, R68, R112). -/
opaque choice : Nat → Nat

/-- R6 `UndefEffType`: the effective type in the cells of Table 9-2 that read "Undefined" (R67). -/
opaque undefEffType : PatType → MtrrType → EffType

/-- R6 `MtrrType` of processor `id`, where its State names no range (R25). -/
opaque mtrrType : Nat → PhysAddr → MtrrType

/-- R6 `PermCheck`: whether the entry permits the access (R42). -/
opaque permCheck : PermKey → Bool

/-- R6 `AccessedDirtyUpdate`: the bits the update leaves (R42). -/
opaque accessedDirty : AdKey → AdBits

/-- R6 `WalkPAE`: the addresses of the PAE walk (R52). -/
opaque paeAddress : PaeKey → PhysAddr

/-- R6 `WalkPAE`: whether an 8-byte entry breaks a reserved bit the spec does not describe (R47, R52). -/
opaque paeReserved : PaeEntry → Bool

end Config

end Sys2Proof
end

