-- ==== Sys2Proof/Machine/MemType.lean ====
section
/-! DEFINITION. The Page Attribute Table as a value, the memory types and the effective memory type of
Table 9-2 (spec/10_state.md R20 to R24; spec/20_memory.md R56, R60 to R64, R67; spec/41_msr_access.md R90). -/

namespace Sys2Proof

/-- The MSR address of the PAT (R20, R6 `PAT_MSR`). -/
def patMsr : Word := 0x277#32

/-- The PAT at processor reset and initialization (R23, R107). -/
def patReset : QWord := 0x0007040600070406#64

/-- Field `PAi` of the PAT, bits `8i+7 : 8i` (R21). -/
def patField (pat : QWord) (i : Nat) : Byte := pat.extractLsb' (8 * i) 8

/-- The type an encoding of Table 9-3 stands for; 2, 3 and 8 to 255 are reserved (R61). -/
def PatType.ofEncoding? (b : Byte) : Option PatType :=
  if b = 0#8 then some .uc
  else if b = 1#8 then some .wc
  else if b = 4#8 then some .wt
  else if b = 5#8 then some .wp
  else if b = 6#8 then some .wb
  else if b = 7#8 then some .ucMinus
  else none

/-- The encoding of a type in a PAT field (R61). -/
def PatType.encoding : PatType → Byte
  | .uc => 0#8
  | .wc => 1#8
  | .wt => 4#8
  | .wp => 5#8
  | .wb => 6#8
  | .ucMinus => 7#8

/-- The type an MTRR encoding stands for: encoding 7 remains undefined for the MTRRs (R25). -/
def MtrrType.ofEncoding? (b : Byte) : Option MtrrType :=
  if b = 0#8 then some .uc
  else if b = 1#8 then some .wc
  else if b = 4#8 then some .wt
  else if b = 5#8 then some .wp
  else if b = 6#8 then some .wb
  else none

/-- `PatValueLegal` of R90: the whole byte of each of the eight fields is a defined encoding. -/
def patValueLegal (v : QWord) : Bool :=
  (List.range 8).all fun i => (PatType.ofEncoding? (patField v i)).isSome

/-- The lookup `PatType(idx)` of R60: the type whose encoding is in bits 2:0 of field `PA<idx>`. It is
`none` only for a PAT that holds a reserved encoding, which no legal write makes (R24). -/
def patType? (pat : QWord) (idx : BitVec 3) : Option PatType :=
  PatType.ofEncoding? (patField pat idx.toNat &&& 0x07#8)

/-- `PAT_i : PCD : PWT` (R56). -/
def patIndex (pati pcd pwt : Bool) : BitVec 3 :=
  BitVec.ofBool pati ++ BitVec.ofBool pcd ++ BitVec.ofBool pwt

/-- The page memory type of a processor without the PAT, from PCD and PWT alone (R54). -/
def legacyPageType (pcd pwt : Bool) : PatType :=
  match pcd, pwt with
  | false, false => .wb
  | false, true => .wt
  | true, false => .ucMinus
  | true, true => .uc

/-- Table 9-2, cell by cell (R64); the cells that read "Undefined" are the parameter `UndefEffType` (R67). -/
def table92 (p : PatType) (m : MtrrType) : EffType :=
  match p, m with
  | .ucMinus, .uc => .ucMtrr
  | .ucMinus, .wc => .wc
  | .ucMinus, .wt => .ucPage
  | .ucMinus, .wp => Config.undefEffType .ucMinus .wp
  | .ucMinus, .wb => .ucPage
  | .uc, .uc => .ucMtrr
  | .uc, .wc => .ucPage
  | .uc, .wt => .ucPage
  | .uc, .wp => .ucPage
  | .uc, .wb => .ucPage
  | .wc, .uc => .wc
  | .wc, .wc => .wc
  | .wc, .wt => .wc
  | .wc, .wp => .wc
  | .wc, .wb => .wc
  | .wt, .uc => .ucMtrr
  | .wt, .wc => Config.undefEffType .wt .wc
  | .wt, .wt => .wt
  | .wt, .wp => Config.undefEffType .wt .wp
  | .wt, .wb => .wt
  | .wp, .uc => .ucMtrr
  | .wp, .wc => Config.undefEffType .wp .wc
  | .wp, .wt => Config.undefEffType .wp .wt
  | .wp, .wp => .wp
  | .wp, .wb => .wp
  | .wb, .uc => .ucMtrr
  | .wb, .wc => .wc
  | .wb, .wt => .wt
  | .wb, .wp => .wp
  | .wb, .wb => .wb

/-- The effective type an MTRR type gives with no page type to combine with (R69): the type itself, a UC
that came from the MTRRs being UC_MTRR (R68; log 40). -/
def EffType.ofMtrr : MtrrType → EffType
  | .uc => .ucMtrr
  | .wc => .wc
  | .wt => .wt
  | .wp => .wp
  | .wb => .wb

/-- The names of the ordering models of Table 9-3; the spec defines none of them (R74). -/
inductive OrderingName where
  | strong | weak | speculativeProcessor | strongOverridable
  deriving DecidableEq, Repr, Inhabited

/-- A row of Table 9-3 (R62). -/
structure TypeProperties where
  cacheableReads : Bool
  cacheableWrites : Bool
  writeBack : Bool
  speculativeReads : Bool
  ordering : OrderingName
  deriving DecidableEq, Repr, Inhabited

/-- Table 9-3 (R62). -/
def PatType.properties : PatType → TypeProperties
  | .uc => ⟨false, false, false, false, .strong⟩
  | .wc => ⟨false, false, false, true, .weak⟩
  | .wt => ⟨true, true, false, true, .speculativeProcessor⟩
  | .wp => ⟨true, false, false, true, .speculativeProcessor⟩
  | .wb => ⟨true, true, true, true, .speculativeProcessor⟩
  | .ucMinus => ⟨false, false, false, false, .strongOverridable⟩

/-- The properties of an effective type: UC_PAGE and UC_MTRR are both the type UC (R68). -/
def EffType.properties : EffType → TypeProperties
  | .ucPage => PatType.uc.properties
  | .ucMtrr => PatType.uc.properties
  | .uc => PatType.uc.properties
  | .wc => PatType.wc.properties
  | .wt => PatType.wt.properties
  | .wp => PatType.wp.properties
  | .wb => PatType.wb.properties

end Sys2Proof
end

