-- ==== Sys2Proof/Machine/State.lean ====
section
/-! DEFINITION. The state of the machine as plain data, the reasons a step stops, and the state after
reset (spec/10_state.md R10 to R31; spec/60_exceptions.md R92 to R99, R103). -/

namespace Sys2Proof.Machine

open Sys2Proof

/-- A cached translation (R29): the linear page it is for, the page's size, its physical base, the PAT
index it was made with and the PAT type that index selected then. -/
structure TlbEntry where
  page : LinAddr
  size : PageSize
  base : PhysAddr
  idx : BitVec 3
  pat : PatType
  deriving DecidableEq, Repr, Inhabited

/-- One byte held by a processor's caches (R30): where it is from, the byte, the effective type it was
cached under (D16), and whether memory is still to receive it. -/
structure CacheLine where
  addr : PhysAddr
  byte : Byte
  type : EffType
  dirty : Bool
  deriving DecidableEq, Repr, Inhabited

/-- The memory type the MTRRs give the physical addresses from `first` to `last` (R25). -/
structure MtrrRange where
  first : PhysAddr
  last : PhysAddr
  type : MtrrType
  deriving DecidableEq, Repr, Inhabited

/-- An earlier value of the PAT (R112; log 20): whether the TLB held translations or the caches held bytes when it
was replaced, so that accesses may still be made under it, and which of the two flushes has occurred since. -/
structure OlderPat where
  pat : QWord
  live : Bool
  tlbFlushed : Bool
  cachesFlushed : Bool
  deriving DecidableEq, Repr, Inhabited

/-- A physical page as a mapping gives it (R115; log 25): its size and base, and the PAT index and PAT type of the
mapping. -/
structure MappedFrame where
  size : PageSize
  base : PhysAddr
  idx : BitVec 3
  pat : PatType
  deriving DecidableEq, Repr, Inhabited

/-- The state each processor has of its own (R103). -/
structure Cpu where
  /-- The model's own number of the processor (log 34). -/
  id : Nat
  /-- General registers (R10, R11). -/
  eax : Word
  ebx : Word
  ecx : Word
  edx : Word
  /-- Instruction pointer (R12). -/
  pc : Word
  /-- Current privilege level (R13). -/
  cpl : BitVec 2
  /-- Control registers (R14 to R18); CR2 receives the address of a page fault (R93). The spec gives flags
  and fields of them and no width: 32 bits is the model's, PRESUMED (log 42). -/
  cr0 : Word
  cr2 : Word
  cr3 : Word
  cr4 : Word
  /-- The Page Attribute Table, MSR 277H (R20). -/
  pat : QWord
  /-- The values the PAT had that are not flushed out yet, the latest first (R112; log 20). -/
  olderPats : List OlderPat
  /-- MTRRDefType (R26); its width is the model's (log 33). -/
  mtrrDefType : QWord
  /-- The fixed and variable MTRRs as the types they give; the first range that holds an address decides,
  and `Config.mtrrType` where none does (R25). -/
  mtrrs : List MtrrRange
  /-- Translation lookaside buffers (R29). -/
  tlb : List TlbEntry
  /-- Caches (R30). -/
  cache : List CacheLine
  /-- The model's own: the pages that the processor may have used through a cacheable mapping and has not flushed out
  of its caches after their remapping as WC (R115, R119; log 25). -/
  cacheable : List MappedFrame
  deriving DecidableEq, Repr, Inhabited

/-- What backs a range of physical addresses (R28). -/
inductive Backing where
  | memory | device
  deriving DecidableEq, Repr, Inhabited

/-- A backed range of physical addresses of the platform (R6 `PhysMap`). -/
structure Region where
  first : Nat
  size : Nat
  backing : Backing
  deriving DecidableEq, Repr, Inhabited

/-- The platform and the chosen values of the open parameters (R6). Each list names finitely many
arguments; where it is silent the constant of `Config` answers, so an empty list assumes nothing. -/
structure Platform where
  physMap : List Region
  permCheck : List (PermKey × Bool)
  accessedDirty : List (AdKey × AdBits)
  paeAddress : List (PaeKey × PhysAddr)
  paeReserved : List (PaeEntry × Bool)
  deriving DecidableEq, Repr, Inhabited

/-- What happens beside the instructions (R19, R29, R30, R77; D16; log 1). -/
inductive Event where
  /-- FlushTLB on the running processor (R29, R77). -/
  | flushTlb
  /-- FlushCaches on the running processor (R30, R77). -/
  | flushCaches
  /-- The running processor uses the mapping of `la` for an access, if only speculatively, and caches the
  translation (R29, R119). -/
  | tlbFill (access : Access) (la : LinAddr)
  /-- The `k`-th cached translation is dropped (D16). -/
  | tlbDrop (k : Nat)
  /-- A speculative access to the byte at `la` leaves a copy in the caches, where its type allows (R62, R119). -/
  | cacheFill (access : Access) (la : LinAddr)
  /-- The cached byte of `pa` is written back if memory is to receive it, and dropped. -/
  | cacheDrop (pa : PhysAddr)
  /-- The environment writes a control register or MTRRDefType (R19; D16). -/
  | setCr0 (v : Word)
  | setCr3 (v : Word)
  | setCr4 (v : Word)
  | setMtrrDefType (v : QWord)
  /-- A load of `n` bytes by an instruction the spec does not describe: `MemRead` (R70). -/
  | memRead (la : LinAddr) (n : Nat)
  /-- A store by an instruction the spec does not describe: `MemWrite` (R70). -/
  | memWrite (la : LinAddr) (bytes : List Byte)
  /-- The `k`-th of the other processors is the one that runs from now on (R103). -/
  | run (k : Nat)
  deriving DecidableEq, Repr

/-- What one step is: an event, or an instruction of the running processor (log 1). -/
inductive Turn where
  | event (e : Event)
  | instruction
  deriving DecidableEq, Repr

/-- Physical memory: (address, byte) pairs at strictly rising addresses; an unlisted byte has no value
(R28; log 4). -/
abbrev Memory := List Host.Cell

/-- The state of the system. -/
structure State where
  /-- The processor that executes. -/
  cpu : Cpu
  /-- The other processors (R103). -/
  others : List Cpu
  /-- Physical memory, shared (R28). -/
  mem : Memory
  /-- The platform and the chosen values of the open parameters (R6). -/
  platform : Platform
  /-- The model's own: the pages remapped as WC for which step 4 of R115, the flush of the caches, is still to come
  on some processor (log 25). -/
  remaps : List MappedFrame
  /-- The model's own: physical addresses that stores wrote to (R78; log 27). -/
  stored : List Nat
  /-- The model's own: what the coming steps are, in order; after the last of them every step is an
  instruction (log 1). -/
  pending : List Turn
  /-- The model's own: what the last `memRead` event read (R70). -/
  readData : List Byte
  /-- The model's own: how many free values were drawn. -/
  freeCount : Nat
  deriving DecidableEq, Repr

/-- The exceptions in scope (R95). -/
inductive Exception where
  /-- Page fault with its error code and the linear address (R92, R93). -/
  | pageFault (ec : Word) (la : LinAddr)
  /-- General-protection fault with its error code (R94). -/
  | generalProtection (ec : Word)
  deriving DecidableEq, Repr

/-- Why the machine stops with a fault. -/
inductive Fault where
  /-- An exception of the spec: the run ends in the terminal outcome `Fault(kind, ec, la)` of R98; `after`
  is the state it leaves (R99). Raised by WRMSR, RDMSR and every translated access. Safe. -/
  | exception (e : Exception) (after : State)
  /-- An access to a physical address that PhysMap does not back has no meaning (R73). Raised by every
  physical access. Safe. -/
  | unbacked (pa : PhysAddr)
  /-- A read of a byte of memory that has no value yet (R31; log 4). Raised by every physical read. Safe. -/
  | unwritten (pa : PhysAddr)
  deriving DecidableEq, Repr

/-- Why the machine gives no meaning to a step. -/
inductive Refusal where
  /-- An instruction with no meaning yet; raised by an arm of exec only. Safe. -/
  | notModelled (mnemonic : String)
  /-- The fetched bytes are no instruction of the opcode map (R79, R83). Raised by the fetch. Safe. -/
  | undecodable (e : DecodeError)
  /-- RDMSR or WRMSR at an address other than 277H, of which the sources say nothing (R27, R88, R89).
  Raised by RDMSR and WRMSR. Safe. -/
  | msrNotInSource (address : Word)
  /-- CR0.CD = 0 with CR0.NW = 1 (R63, R65). Raised by every access whose effective type is formed. Safe. -/
  | cacheControl
  /-- An access to a device, whose behaviour the sources do not give (R73). Raised by every physical
  access. Safe. -/
  | deviceAccess (pa : PhysAddr)
  /-- A fetch of a byte the program stored to (R78). Raised by the fetch. Safe. -/
  | selfModifying (pa : PhysAddr)
  /-- An instruction whose two bytes lie on both sides of the top of the linear address space (R12; D17;
  log 10). Raised by the fetch. Safe. -/
  | fetchWraps
  /-- A load or store while another processor has another PAT or other MTRRs (R104, R113; log 35). Raised by
  the events `memRead` and `memWrite`. Safe. -/
  | memoryTypesDiffer (pa : PhysAddr)
  /-- A PAT lookup in a field that holds a reserved encoding, which no run reaches (R24). Safe. -/
  | reservedPatField (idx : BitVec 3)
  deriving DecidableEq, Repr

/-- The processor right after reset: the PAT as R23 states; every other value is the model's own choice
(R31; log 2, log 3, log 7). -/
def Cpu.reset : Cpu where
  id := 0
  eax := 0#32
  ebx := 0#32
  ecx := 0#32
  edx := 0#32
  pc := 0#32
  cpl := 0#2
  cr0 := 0#32
  cr2 := 0#32
  cr3 := 0#32
  cr4 := 0#32
  pat := patReset
  olderPats := []
  mtrrDefType := 0#64
  mtrrs := []
  tlb := []
  cache := []
  cacheable := []

/-- The platform of `State.reset`: memory behind every physical address (log 5), no parameter chosen (log 6). -/
def Platform.reset : Platform where
  physMap := [{ first := 0, size := 2 ^ 36, backing := .memory }]
  permCheck := []
  accessedDirty := []
  paeAddress := []
  paeReserved := []

/-- The machine right after reset (R23, R31, R107, R108). -/
def State.reset : State where
  cpu := Cpu.reset
  others := []
  mem := []
  platform := Platform.reset
  remaps := []
  stored := []
  pending := []
  readData := []
  freeCount := 0

end Sys2Proof.Machine
end

