-- ==== Sys2Proof/Machine/Flags.lean ====
section
/-! DEFINITION. The flags of the control registers and of MTRRDefType (spec/10_state.md R14 to R18, R26).
The three instructions write no status flag and the machine has none (R11). -/

namespace Sys2Proof.Machine

open Sys2Proof

/-- `CR0.PG`, bit 31: paging is enabled (R14). -/
def Cpu.pg (c : Cpu) : Bool := c.cr0.getLsbD 31

/-- `CR0.CD`, bit 30 (R15). -/
def Cpu.cd (c : Cpu) : Bool := c.cr0.getLsbD 30

/-- `CR0.NW`, bit 29 (R15). -/
def Cpu.nw (c : Cpu) : Bool := c.cr0.getLsbD 29

/-- `CR4.PSE`, bit 4 (R17). -/
def Cpu.pse (c : Cpu) : Bool := c.cr4.getLsbD 4

/-- `CR4.PAE`, bit 5 (R18). -/
def Cpu.pae (c : Cpu) : Bool := c.cr4.getLsbD 5

/-- `CR3.PWT`, bit 3 (R16). -/
def Cpu.cr3Pwt (c : Cpu) : Bool := c.cr3.getLsbD 3

/-- `CR3.PCD`, bit 4 (R16). -/
def Cpu.cr3Pcd (c : Cpu) : Bool := c.cr3.getLsbD 4

/-- `MTRRDefType.E`, bit 11: the MTRRs are enabled (R26). -/
def Cpu.mtrrEnabled (c : Cpu) : Bool := c.mtrrDefType.getLsbD 11

/-- The one configuration for which the source promises strict ordering of all accesses (R75). -/
def Cpu.strictOrdering (c : Cpu) : Bool := c.cd && !c.mtrrEnabled

end Sys2Proof.Machine
end

