-- ==== Sys2Proof/Machine/Memory.lean ====
section
/-! DEFINITION. Physical memory as a canonical list of bytes and the byte order (spec/10_state.md R28;
spec/20_memory.md R33, R34). -/

namespace Sys2Proof.Machine

open Sys2Proof

/-- The byte at address `a`; an unlisted address has no value (log 4). -/
def Memory.read : Memory → Nat → Option Byte
  | [], _ => none
  | (k, b) :: m, a => if a = k then some b else Memory.read m a

/-- Write byte `v` at address `a`, keeping the addresses strictly rising. -/
def Memory.write : Memory → Nat → Byte → Memory
  | [], a, v => [(a, v)]
  | (k, b) :: m, a, v =>
    if a < k then (a, v) :: (k, b) :: m
    else if a = k then (a, v) :: m
    else (k, b) :: Memory.write m a v

/-- Write a list of bytes from address `a` up. -/
def Memory.writeBytes (m : Memory) (a : Nat) : List Byte → Memory
  | [] => m
  | b :: bs => (m.write a b).writeBytes (a + 1) bs

/-- Addresses rise strictly from `lo` on and stay below 2^36 (R33). -/
def Memory.wfFrom (lo : Nat) : Memory → Bool
  | [] => true
  | (k, _) :: m => decide (lo ≤ k) && decide (k < 2 ^ 36) && Memory.wfFrom (k + 1) m

/-- The canonical form of memory. An unlisted address has no value, so no entry can equal one. -/
def Memory.wf (m : Memory) : Bool := m.wfFrom 0

/-- The 32-bit value of four bytes, lowest address first: little-endian (R34). -/
def le32 (bs : List Byte) : Word :=
  bs.getD 3 0#8 ++ bs.getD 2 0#8 ++ bs.getD 1 0#8 ++ bs.getD 0 0#8

/-- The 64-bit value of eight bytes, lowest address first: little-endian (R34). -/
def le64 (bs : List Byte) : QWord :=
  bs.getD 7 0#8 ++ bs.getD 6 0#8 ++ bs.getD 5 0#8 ++ bs.getD 4 0#8 ++
    bs.getD 3 0#8 ++ bs.getD 2 0#8 ++ bs.getD 1 0#8 ++ bs.getD 0 0#8

/-- The four bytes of memory at `a`, if all have a value. -/
def Memory.read4 (m : Memory) (a : Nat) : Option Word :=
  match m.read a, m.read (a + 1), m.read (a + 2), m.read (a + 3) with
  | some b0, some b1, some b2, some b3 => some (le32 [b0, b1, b2, b3])
  | _, _, _, _ => none

/-- The eight bytes of memory at `a`, if all have a value. -/
def Memory.read8 (m : Memory) (a : Nat) : Option QWord :=
  match m.read4 a, m.read4 (a + 4) with
  | some lo, some hi => some (hi ++ lo)
  | _, _ => none

/-- What backs physical address `a`, if anything (R28, R73): the first region that holds it. -/
def Platform.backing? (p : Platform) (a : Nat) : Option Backing :=
  (p.physMap.find? fun r => decide (r.first ≤ a) && decide (a < r.first + r.size)).map (·.backing)

end Sys2Proof.Machine
end

