-- ==== Sys2Proof/Machine/Paging.lean ====
section
/-! DEFINITION. Paging modes and the formats of the 4-byte and 8-byte entries as functions of bits
(spec/20_memory.md R37, R40, R42 to R48, R51, R57 to R59; spec/60_exceptions.md R93). -/

namespace Sys2Proof.Machine

open Sys2Proof

/-- The rows of Table 3-1 (R37). -/
inductive PagingMode where
  | disabled | k4Phys32 | m4Phys36 | k4Phys36 | m2Phys36
  deriving DecidableEq, Repr, Inhabited

/-- Table 3-1 (R37): the mode for CR0.PG, CR4.PAE, CR4.PSE and the PS flag of the PDE. -/
def pagingMode (pg pae pse ps : Bool) : PagingMode :=
  match pg, pae, pse, ps with
  | false, _, _, _ => .disabled
  | true, false, false, _ => .k4Phys32
  | true, false, true, false => .k4Phys32
  | true, false, true, true => .m4Phys36
  | true, true, _, false => .k4Phys36
  | true, true, _, true => .m2Phys36

/-- The page size column of Table 3-1. -/
def PagingMode.pageSize? : PagingMode → Option PageSize
  | .disabled => none
  | .k4Phys32 => some .k4
  | .m4Phys36 => some .m4
  | .k4Phys36 => some .k4
  | .m2Phys36 => some .m2

/-- The physical address size column of Table 3-1, in bits, for a processor with or without PSE-36: the
fourth row is the one that the feature changes (R37). -/
def PagingMode.physBitsWith? (pse36 : Bool) : PagingMode → Option Nat
  | .disabled => none
  | .k4Phys32 => some 32
  | .m4Phys36 => if pse36 then some 36 else some 32
  | .k4Phys36 => some 36
  | .m2Phys36 => some 36

/-- The physical address size column of Table 3-1 on this hardware. -/
def PagingMode.physBits? (m : PagingMode) : Option Nat := m.physBitsWith? Config.hasPse36

/-- Number of offset bits of a page: 4 KB, 2 MB, 4 MB (R44, R47, R51). -/
def pageBits : PageSize → Nat
  | .k4 => 12
  | .m2 => 21
  | .m4 => 22

/-- The physical address at `la`'s offset in the page with base `base` (R44, R47, R51): concatenation. -/
def inPage (size : PageSize) (base : PhysAddr) (la : LinAddr) : PhysAddr :=
  match size with
  | .k4 => base.extractLsb' 12 24 ++ la.extractLsb' 0 12
  | .m2 => base.extractLsb' 21 15 ++ la.extractLsb' 0 21
  | .m4 => base.extractLsb' 22 14 ++ la.extractLsb' 0 22

/-- The linear address of the first byte of `la`'s page. -/
def pageStart (size : PageSize) (la : LinAddr) : LinAddr :=
  match size with
  | .k4 => la.extractLsb' 12 20 ++ 0#12
  | .m2 => la.extractLsb' 21 11 ++ 0#21
  | .m4 => la.extractLsb' 22 10 ++ 0#22

/-- Bit 0, P: the entry is present (R42). -/
def entryPresent (e : QWord) : Bool := e.getLsbD 0

/-- Bit 3, PWT (R42). -/
def entryPwt (e : QWord) : Bool := e.getLsbD 3

/-- Bit 4, PCD (R42). -/
def entryPcd (e : QWord) : Bool := e.getLsbD 4

/-- Bit 7 of a PDE, PS (R40). -/
def pdePs (e : QWord) : Bool := e.getLsbD 7

/-- The index `0 : PCD : PWT` of the structure an entry points to (R59). -/
def structIndex (e : QWord) : BitVec 3 := patIndex false (entryPcd e) (entryPwt e)

/-- The PAT index of the page a PTE maps: PAT_i is bit 7 (R57). -/
def pteIndex (pte : QWord) : BitVec 3 := patIndex (pte.getLsbD 7) (entryPcd pte) (entryPwt pte)

/-- The PAT index of the page a large-page PDE maps: PAT_i is bit 12 (R57). -/
def largeIndex (pde : QWord) : BitVec 3 := patIndex (pde.getLsbD 12) (entryPcd pde) (entryPwt pde)

/-- An entry with its PAT index bit cleared: bit 7 of a PTE, bit 12 of a PDE that maps a large page (R57). No
test of an entry depends on that bit (R48). -/
def withoutPatIndex (level : Level) (large : Bool) (e : QWord) : QWord :=
  match level, large with
  | .pte, _ => e &&& ~~~0x80#64
  | .pde, true => e &&& ~~~0x1000#64
  | .pde, false => e
  | .pdpte, _ => e

/-- The address of the page-directory entry of `la`: `CR3[31:12] : la[31:22] : 00` (R43). -/
def pdeAddress (cr3 : Word) (la : LinAddr) : PhysAddr :=
  (cr3.extractLsb' 12 20 ++ la.extractLsb' 22 10 ++ 0#2 : Word).setWidth 36

/-- Bits 21:17 of a 4 MB PDE are reserved (R40, R46). -/
def reserved4M (pde : Word) : Bool := pde.extractLsb' 17 5 != 0#5

/-- `PA-2 : PA-1 : offset`, the physical address through a 4 MB PDE (R44). -/
def address4M (pde : Word) (la : LinAddr) : PhysAddr :=
  pde.extractLsb' 13 4 ++ pde.extractLsb' 22 10 ++ la.extractLsb' 0 22

/-- The address of the page-table entry of `la`: `pde[31:12] : la[21:12] : 00` (R51). -/
def pteAddress (pde : Word) (la : LinAddr) : PhysAddr :=
  (pde.extractLsb' 12 20 ++ la.extractLsb' 12 10 ++ 0#2 : Word).setWidth 36

/-- The physical address through a PTE: `pte[31:12] : la[11:0]` (R51). -/
def address4K (pte : Word) (la : LinAddr) : PhysAddr :=
  (pte.extractLsb' 12 20 ++ la.extractLsb' 0 12 : Word).setWidth 36

/-- Bits 20:13 of a 2 MB PDE are reserved (R47). -/
def reserved2M (pde : QWord) : Bool := pde.extractLsb' 13 8 != 0#8

/-- The physical address through a 2 MB PDE: the base starts at bit 21 of the entry and the offset has 21
bits (R47); bits 35:32 are where the sources do not say and come from `top` (R52). -/
def address2M (top : PhysAddr) (pde : QWord) (la : LinAddr) : PhysAddr :=
  top.extractLsb' 32 4 ++ pde.extractLsb' 21 11 ++ la.extractLsb' 0 21

/-- The error code of a page fault (R93): bit 0 P, bit 1 W/R, bit 2 U/S, bit 3 RSVD, bits 31:4 zero. -/
def pageFaultCode (present reserved : Bool) (access : Access) (cpl : BitVec 2) : Word :=
  (BitVec.ofBool reserved ++ BitVec.ofBool (decide (cpl = 3#2)) ++
    BitVec.ofBool (decide (access = Access.write)) ++ BitVec.ofBool present : BitVec 4).setWidth 32

end Sys2Proof.Machine
end

