-- ==== Sys2Proof/Machine/Ops.lean ====
section
/-! DEFINITION. The shared operations: results that carry the state, taking an exception, the instruction
pointer, and free values (spec/10_state.md R12; spec/60_exceptions.md R92 to R99). -/

namespace Sys2Proof.Machine

open Sys2Proof

/-- The result of an operation: a value and the state after it, or the reason the step stops. -/
inductive Res (α : Type) where
  | ok (a : α) (s : State)
  | fault (f : Fault)
  | refused (r : Refusal)
  deriving DecidableEq, Repr

/-- Go on with the value and the state, or stop. -/
def Res.bind {α β : Type} (r : Res α) (k : α → State → Res β) : Res β :=
  match r with
  | .ok a s => k a s
  | .fault f => .fault f
  | .refused q => .refused q

/-- The outcome of a step whose last operation gave `r`. -/
def Res.outcome (r : Res Unit) : Host.Outcome State Fault Refusal :=
  match r with
  | .ok _ s => .next s
  | .fault f => .fault f
  | .refused q => .refused q

/-- The vector of an exception (R93, R94). -/
def Exception.vector : Exception → Nat
  | .pageFault _ _ => 14
  | .generalProtection _ => 13

/-- The state an exception leaves (R99): the instruction has no effect and `pc` still points at it; a page
fault records its linear address in CR2 (R93; log 12). -/
def afterException (e : Exception) (s : State) : State :=
  match e with
  | .pageFault _ la => { s with cpu := { s.cpu with cr2 := la } }
  | .generalProtection _ => s

/-- Taking an exception: the terminal outcome of R98 with the state it leaves. No handler runs, so there
is no return from one (R101). -/
def exceptionFault (e : Exception) (s : State) : Fault := .exception e (afterException e s)

/-- `raise` inside an operation (R9). -/
def raise {α : Type} (e : Exception) (s : State) : Res α := .fault (exceptionFault e s)

/-- `raise PageFault(ec, la)` for an access by the running processor (R92, R93). -/
def raisePageFault {α : Type} (present reserved : Bool) (access : Access) (la : LinAddr) (s : State) : Res α :=
  raise (.pageFault (pageFaultCode present reserved access s.cpu.cpl) la) s

/-- `pc <- pc + 2`, modulo 2^32 (R12; log 10). -/
def State.advance (s : State) : State :=
  { s with cpu := { s.cpu with pc := s.cpu.pc + 2#32 } }

/-- Count one free value as drawn. -/
def State.drawn (s : State) : State := { s with freeCount := s.freeCount + 1 }

/-- Draw a free byte. -/
def freeByte (s : State) : Res Byte := .ok (Config.freeByte s.freeCount) s.drawn

/-- Draw a free choice between two behaviours the spec allows. -/
def freeBool (s : State) : Res Bool := .ok (Config.choice s.freeCount % 2 == 0) s.drawn

/-- One of the bytes given, as the spec leaves open which. -/
def oneOf (b : Byte) (bs : List Byte) (s : State) : Res Byte :=
  .ok ((b :: bs).getD (Config.choice s.freeCount % (bs.length + 1)) b) s.drawn

/-- Draw `n` free bytes. -/
def freeBytes : Nat → State → Res (List Byte)
  | 0, s => .ok [] s
  | n + 1, s => (freeByte s).bind fun b s => (freeBytes n s).bind fun bs s => .ok (b :: bs) s

/-- The value of an open parameter: what the table names for the argument, else what `Config` gives. -/
def lookupOr {κ ν : Type} [DecidableEq κ] (table : List (κ × ν)) (dflt : κ → ν) (k : κ) : ν :=
  match table with
  | [] => dflt k
  | (k', v) :: rest => if k = k' then v else lookupOr rest dflt k

/-- A directory entry maps a large page in the modes that look at its PS flag (R37). -/
def Cpu.largePde (c : Cpu) (entry : QWord) : Bool := (c.pae || c.pse) && pdePs entry

/-- `PermCheck` (R6, R42): the entry permits the access, whatever its PAT index bit is (R48). -/
def permitted (s : State) (level : Level) (entry : QWord) (la : LinAddr) (access : Access) : Bool :=
  lookupOr s.platform.permCheck Config.permCheck
    { level := level, entry := withoutPatIndex level (s.cpu.largePde entry) entry, la := la, access := access,
      cpl := s.cpu.cpl }

/-- An address of the PAE walk, open but for what `State.platform` names (R52). -/
def paeAddress (s : State) (k : PaeKey) : PhysAddr := lookupOr s.platform.paeAddress Config.paeAddress k

/-- A reserved bit of an 8-byte entry that the sources do not describe is broken (R47, R52). The PAT index bit
is none of them (R48). -/
def paeReserved (s : State) (level : Level) (entry : QWord) : Bool :=
  lookupOr s.platform.paeReserved Config.paeReserved
    { level := level, entry := withoutPatIndex level (pdePs entry) entry }

/-- `MtrrType(pa)` of a processor (R6, R25). -/
def mtrrTypeAt (c : Cpu) (pa : PhysAddr) : MtrrType :=
  match c.mtrrs.find? fun r => decide (r.first.toNat ≤ pa.toNat) && decide (pa.toNat ≤ r.last.toNat) with
  | some r => r.type
  | none => Config.mtrrType c.id pa

/-- The effective memory type of an access to `pa` by a processor (R63); `page` is the PAT type of the
translation, none with paging disabled (R69). The answer is none in the state R65 gives no meaning. -/
def effectiveType? (c : Cpu) (pa : PhysAddr) (page : Option PatType) : Option EffType :=
  if !c.mtrrEnabled then some .uc
  else if c.cd then some .uc
  else if c.nw then none
  else match page with
    | none => some (EffType.ofMtrr (mtrrTypeAt c pa))
    | some p => some (table92 p (mtrrTypeAt c pa))

/-- The effective type, refusing where R65 gives no meaning. -/
def effectiveType (pa : PhysAddr) (page : Option PatType) (s : State) : Res EffType :=
  match effectiveType? s.cpu pa page with
  | some t => .ok t s
  | none => .refused .cacheControl

/-- `PatType(idx)` in one value of the PAT. -/
def patLookupIn (pat : QWord) (idx : BitVec 3) (s : State) : Res PatType :=
  match patType? pat idx with
  | some p => .ok p s
  | none => .refused (.reservedPatField idx)

/-- `PatType(idx)` of the running processor's PAT, read when the translation is made (R60, R89). -/
def patLookup (idx : BitVec 3) (s : State) : Res PatType := patLookupIn s.cpu.pat idx s

/-- The PAT of a processor and the values it had that are not flushed out yet (R112). -/
def Cpu.patsInUse (c : Cpu) : List QWord := c.pat :: c.olderPats.map (·.pat)

/-- The older values of the PAT that a processor's accesses may still be made under (R112; log 20). -/
def Cpu.livePats (c : Cpu) : List QWord := (c.olderPats.filter (·.live)).map (·.pat)

/-- The PAT type that an access is made under whose translation gives index `idx` and type `p`: `p`, or, while
older values of the PAT are live, the type one of them gives for the index, as the processor chooses (R112;
log 20). -/
def accessPat (idx : BitVec 3) (p : PatType) (s : State) : Res PatType :=
  if s.cpu.livePats.isEmpty then .ok p s
  else
    match s.cpu.livePats[Config.choice s.freeCount % (s.cpu.livePats.length + 1)]? with
    | some pat => patLookupIn pat idx s.drawn
    | none => .ok p s.drawn

end Sys2Proof.Machine
end

