-- ==== Sys2Proof/Machine/Operands.lean ====
section
/-! DEFINITION. The implicit operands of the three instructions (spec/30_encoding.md R82). -/

namespace Sys2Proof.Machine

open Sys2Proof

/-- `EDX:EAX`, the 64-bit operand of WRMSR: EDX is bits 63:32 (R89). -/
def State.msrValue (s : State) : QWord := s.cpu.edx ++ s.cpu.eax

/-- `EDX <- v[63:32]`, `EAX <- v[31:0]` (R88). -/
def State.setMsrPair (s : State) (v : QWord) : State :=
  { s with cpu := { s.cpu with edx := v.extractLsb' 32 32, eax := v.extractLsb' 0 32 } }

/-- The older values of the PAT after it becomes `v`: the value it held is one of them, unless it is `v`
(R89, R112). It is live if translations or cached bytes made under it may be held. -/
def Cpu.olderPatsAfter (c : Cpu) (v : QWord) : List OlderPat :=
  if c.pat = v then c.olderPats
  else
    { pat := c.pat, live := !(c.tlb.isEmpty && c.cache.isEmpty), tlbFlushed := false, cachesFlushed := false } ::
      c.olderPats

/-- `MSR[277H] <- v` on the running processor (R89). Translations made from now on use `v`; accesses may be made
under the older value until both flushes have occurred (R112). -/
def State.setPat (s : State) (v : QWord) : State :=
  { s with cpu := { s.cpu with pat := v, olderPats := s.cpu.olderPatsAfter v } }

/-- The four outputs of CPUID (R86). -/
def State.setCpuidRegs (s : State) (a b c d : Word) : State :=
  { s with cpu := { s.cpu with eax := a, ebx := b, ecx := c, edx := d } }

/-- The word with bit `i` set to `b`. -/
def setBit (w : Word) (i : Nat) (b : Bool) : Word :=
  (w &&& ~~~(BitVec.twoPow 32 i)) ||| (if b then BitVec.twoPow 32 i else 0#32)

/-- EDX of CPUID with `EAX = 1`: CpuidLeaf1's with bit 17 telling PSE-36 and bit 16 telling the PAT (R86). -/
def cpuidFeatureEdx (pse36 pat : Bool) (leafEdx : Word) : Word :=
  setBit (setBit leafEdx 17 pse36) 16 pat

end Sys2Proof.Machine
end

