-- ==== Sys2Proof/Machine/Cpuid.lean ====
section
/-! DEFINITION. CPUID (spec/40_cpuid.md R86). -/

namespace Sys2Proof.Machine

open Sys2Proof

/-- CPUID with `EAX = 1`: the feature leaf (R86). -/
def cpuidLeafOne (s : State) : State :=
  s.setCpuidRegs Config.cpuidLeaf1.eax Config.cpuidLeaf1.ebx Config.cpuidLeaf1.ecx
    (cpuidFeatureEdx Config.hasPse36 Config.hasPat Config.cpuidLeaf1.edx)

/-- CPUID with any other input: four unspecified values (R86; log 11). -/
def cpuidOtherLeaf (s : State) : State :=
  let t := s.setCpuidRegs (Config.freeWord s.freeCount) (Config.freeWord (s.freeCount + 1))
    (Config.freeWord (s.freeCount + 2)) (Config.freeWord (s.freeCount + 3))
  { t with freeCount := s.freeCount + 4 }

/-- CPUID (R86): at every CPL, no flags, no exception; `pc` advances by 2. -/
def execCpuid (s : State) : Host.Outcome State Fault Refusal :=
  if s.cpu.eax = 1#32 then .next (cpuidLeafOne s).advance
  else .next (cpuidOtherLeaf s).advance

end Sys2Proof.Machine
end

