-- ==== Sys2Proof/Machine/Msr.lean ====
section
/-! DEFINITION. RDMSR and WRMSR (spec/41_msr_access.md R88 to R91). -/

namespace Sys2Proof.Machine

open Sys2Proof

/-- RDMSR (R88): privilege first (R91), then the address (R27), then `EDX:EAX <- PAT`. -/
def execRdmsr (s : State) : Host.Outcome State Fault Refusal :=
  if s.cpu.cpl ≠ 0#2 then .fault (exceptionFault (.generalProtection 0#32) s)
  else if s.cpu.ecx ≠ patMsr then .refused (.msrNotInSource s.cpu.ecx)
  else .next (s.setMsrPair s.cpu.pat).advance

/-- WRMSR (R89): privilege first (R91), then the address (R27), then the legality of the value (R90), then
`PAT <- EDX:EAX`. -/
def execWrmsr (s : State) : Host.Outcome State Fault Refusal :=
  if s.cpu.cpl ≠ 0#2 then .fault (exceptionFault (.generalProtection 0#32) s)
  else if s.cpu.ecx ≠ patMsr then .refused (.msrNotInSource s.cpu.ecx)
  else if patValueLegal s.msrValue = false then .fault (exceptionFault (.generalProtection 0#32) s)
  else .next (s.setPat s.msrValue).advance

end Sys2Proof.Machine
end

