-- ==== Sys2Proof/Machine/Dispatch.lean ====
section
/-! DEFINITION. One arm per constructor of Instr. -/

namespace Sys2Proof.Machine

open Sys2Proof

/-- The meaning of an instruction (spec/40_cpuid.md R86; spec/41_msr_access.md R88, R89). -/
def exec (i : Instr) (s : State) : Host.Outcome State Fault Refusal :=
  match i with
  | .cpuid => Sys2Proof.Machine.execCpuid s
  | .rdmsr => Sys2Proof.Machine.execRdmsr s
  | .wrmsr => Sys2Proof.Machine.execWrmsr s

end Sys2Proof.Machine
end

