-- ==== Sys2Proof/Machine/Access.lean ====
section
/-! DEFINITION. Physical accesses under an effective memory type, through the running processor's caches
(spec/10_state.md R30; spec/20_memory.md R34, R62, R68, R73, R74; log 23, log 26). -/

namespace Sys2Proof.Machine

open Sys2Proof

/-- The copy of the byte at `pa` in a processor's caches, if there is one. -/
def Cpu.cached? (c : Cpu) (pa : PhysAddr) : Option CacheLine := c.cache.find? fun l => l.addr == pa

/-- The running processor's caches with at most this one copy of the byte at `line.addr`. -/
def State.setLine (s : State) (line : CacheLine) : State :=
  { s with cpu := { s.cpu with cache := line :: s.cpu.cache.filter (fun l => l.addr != line.addr) } }

/-- The running processor's caches without a copy of the byte at `pa`. -/
def State.dropLine (s : State) (pa : PhysAddr) : State :=
  { s with cpu := { s.cpu with cache := s.cpu.cache.filter (fun l => l.addr != pa) } }

/-- Memory with byte `v` at `pa`. -/
def State.setByte (s : State) (pa : PhysAddr) (v : Byte) : State :=
  { s with mem := s.mem.write pa.toNat v }

/-- A byte of memory itself; one that nothing has written has no value (log 4). -/
def memoryByte (pa : PhysAddr) (s : State) : Res Byte :=
  match s.mem.read pa.toNat with
  | some b => .ok b s
  | none => .fault (.unwritten pa)

/-- Every copy of the byte at `pa`, the running processor's first. -/
def State.copies (s : State) (pa : PhysAddr) : List CacheLine := (s.cpu :: s.others).filterMap (·.cached? pa)

/-- The copies of the byte at `pa` that memory has not received. -/
def State.dirtyCopies (s : State) (pa : PhysAddr) : List CacheLine := (s.copies pa).filter (·.dirty)

/-- The bytes that other processors' caches hold for `pa` and memory has not received. -/
def State.pendingElsewhere (s : State) (pa : PhysAddr) : List Byte :=
  s.others.filterMap fun c => ((c.cached? pa).filter (·.dirty)).map (·.byte)

/-- A read as the processor's own accesses leave the byte at `pa`, in program order, or, where other processors
hold bytes that memory has not received, one of those: which, is the open OrderingModel (R74; log 26). -/
def ownOrElsewhere (pa : PhysAddr) (s : State) (own : State → Res Byte) : Res Byte :=
  match s.pendingElsewhere pa with
  | [] => own s
  | b :: bs =>
    (freeBool s).bind fun mine s =>
      if mine && ((s.cpu.cached? pa).isSome || (s.mem.read pa.toNat).isSome) then own s else oneOf b bs s

/-- The processor may leave a copy in its caches: an access of a cacheable type may (R62). -/
def keepCopy (line : CacheLine) (s : State) : Res Unit :=
  (freeBool s).bind fun keep s => .ok () (if keep then s.setLine line else s)

/-- A copy or memory, as the processor chooses: a copy that may be stale may or may not be used (D16). -/
def copyOrMemory (line : CacheLine) (pa : PhysAddr) (s : State) : Res Byte :=
  (freeBool s).bind fun useCopy s => if useCopy then .ok line.byte s else memoryByte pa s

/-- A read that checks the caches of every processor (R68): the copy that memory has not received; one of them where
they differ, whose order the spec leaves open (R74); without one, the processor's own copy, or memory where it has
none. A copy of its own that differs from memory, as an access that ignored the caches leaves it (R68), is read or
not by choice, so that no later write of its own is shut out (D27; log 26). -/
def readChecked (pa : PhysAddr) (s : State) : Res Byte :=
  match s.dirtyCopies pa with
  | [] =>
    match s.cpu.cached? pa with
    | some line =>
      if (s.mem.read pa.toNat).getD line.byte = line.byte then .ok line.byte s else copyOrMemory line pa s
    | none => memoryByte pa s
  | line :: rest =>
    if rest.all (fun l => l.byte == line.byte) then .ok line.byte s else oneOf line.byte (rest.map (·.byte)) s

/-- A read that may ignore the caches (R68; D15). -/
def readUnchecked (pa : PhysAddr) (s : State) : Res Byte :=
  if (s.copies pa).isEmpty then memoryByte pa s
  else
    ownOrElsewhere pa s fun s =>
      (freeBool s).bind fun check s => if check then readChecked pa s else memoryByte pa s

/-- A read under a type that is cacheable for reads (R62): the processor's own copy, which it must see while
memory has not received it; without one memory's byte, of which it may leave a copy. -/
def readCacheable (pa : PhysAddr) (t : EffType) (s : State) : Res Byte :=
  ownOrElsewhere pa s fun s =>
    match s.cpu.cached? pa with
    | some line => if line.dirty then .ok line.byte s else copyOrMemory line pa s
    | none =>
      (memoryByte pa s).bind fun b s =>
        (keepCopy { addr := pa, byte := b, type := t, dirty := false } s).bind fun _ s => .ok b s

/-- Read a byte of backed memory under type `t` (R62, R68). WC of a location that some caches hold is
undefined (R115). -/
def readBacked (pa : PhysAddr) (t : EffType) (s : State) : Res Byte :=
  match t with
  | .ucPage => readChecked pa s
  | .ucMtrr => readUnchecked pa s
  | .uc => readUnchecked pa s
  | .wc => if (s.copies pa).isEmpty then memoryByte pa s else freeByte s
  | .wt => readCacheable pa .wt s
  | .wp => readCacheable pa .wp s
  | .wb => readCacheable pa .wb s

/-- Stop an access to an address that is not memory (R73). -/
def ifMemory {α : Type} (pa : PhysAddr) (s : State) (k : State → Res α) : Res α :=
  match s.platform.backing? pa.toNat with
  | none => .fault (.unbacked pa)
  | some .device => .refused (.deviceAccess pa)
  | some .memory => k s

/-- Read a byte of physical memory under memory type `t`. -/
def readByte (pa : PhysAddr) (t : EffType) (s : State) : Res Byte := ifMemory pa s (readBacked pa t)

/-- `PhysRead(pa, n)` under memory type `t`, as bytes from the lowest address up (R9, R34). After the last
physical address the next is 0: DESIGN CHOICE, the spec says nothing of such an access (log 41). -/
def physRead (pa : PhysAddr) : Nat → EffType → State → Res (List Byte)
  | 0, _, s => .ok [] s
  | n + 1, t, s =>
    (readByte pa t s).bind fun b s =>
      (physRead (pa + 1#36) n t s).bind fun bs s => .ok (b :: bs) s

/-- The copy of the byte at `pa`, where there is one, with byte `v`; no longer dirty if memory has received `v`. -/
def Cpu.updateCopy (c : Cpu) (pa : PhysAddr) (v : Byte) (received : Bool) : Cpu :=
  { c with
    cache := c.cache.map fun l => if l.addr = pa then { l with byte := v, dirty := l.dirty && !received } else l }

/-- Write into memory and the processor's own copy, which memory then has received. -/
def State.setByteAndCopy (s : State) (pa : PhysAddr) (v : Byte) : State :=
  { s.setByte pa v with cpu := s.cpu.updateCopy pa v true }

/-- Write into memory and every processor's copy (R68), none of which is then a byte that memory has not received: an
older byte of the writer's own is left in no cache (D27). -/
def State.setByteAndCopies (s : State) (pa : PhysAddr) (v : Byte) : State :=
  { s.setByte pa v with cpu := s.cpu.updateCopy pa v true, others := s.others.map (·.updateCopy pa v true) }

/-- The byte at `pa` with an undefined value, in memory and in every copy of its own: a write whose result is
undefined may or may not reach the copies, and leaves any value (R114, R115; log 25). -/
def State.undefineByte (s : State) (pa : PhysAddr) : State :=
  { s with
    mem := s.mem.write pa.toNat (Config.freeByte s.freeCount)
    cpu := s.cpu.updateCopy pa (Config.freeByte (s.freeCount + 1)) false
    others := s.others.zipIdx.map fun (c, i) => c.updateCopy pa (Config.freeByte (s.freeCount + 2 + i)) false
    freeCount := s.freeCount + 2 + s.others.length }

/-- The bytes at the physical addresses given with undefined values. -/
def State.undefineBytes (s : State) : List PhysAddr → State
  | [] => s
  | pa :: pas => (s.undefineByte pa).undefineBytes pas

/-- The `n` physical addresses from `pa` on, in order (log 41). -/
def physSpan (pa : PhysAddr) (n : Nat) : List PhysAddr := (List.range n).map fun i => pa + BitVec.ofNat 36 i

/-- A write that may ignore the caches (R68; D15). -/
def writeUnchecked (pa : PhysAddr) (v : Byte) (s : State) : Res Unit :=
  if (s.copies pa).isEmpty then .ok () (s.setByte pa v)
  else (freeBool s).bind fun check s => .ok () (if check then s.setByteAndCopies pa v else s.setByte pa v)

/-- A write of a cacheable type that reaches memory: it changes the processor's own copy, and every other processor's
copy or none, as the open OrderingModel has it (R74; log 26). -/
def writeToMemory (pa : PhysAddr) (v : Byte) (s : State) : Res Unit :=
  if s.others.all fun c => (c.cached? pa).isNone then .ok () (s.setByteAndCopy pa v)
  else
    (freeBool s).bind fun everywhere s =>
      .ok () (if everywhere then s.setByteAndCopies pa v else s.setByteAndCopy pa v)

/-- Write a byte of backed memory under type `t` (R62, R68). WB may leave the byte in the caches for later;
WT writes through and may leave a copy; WP is not cacheable for writes, so no copy stays; UC_PAGE sees and
updates the copies in the caches; UC_MTRR and the UC of open flavour may; WC to a location that some caches
hold may check them or not, and is undefined (R74, R115). -/
def writeBacked (pa : PhysAddr) (t : EffType) (v : Byte) (s : State) : Res Unit :=
  match t with
  | .wb =>
    if (s.cpu.cached? pa).isSome then .ok () (s.setLine { addr := pa, byte := v, type := .wb, dirty := true })
    else
      (freeBool s).bind fun keep s =>
        if keep then .ok () (s.setLine { addr := pa, byte := v, type := .wb, dirty := true })
        else writeToMemory pa v s
  | .wt =>
    (writeToMemory pa v s).bind fun _ s =>
      if (s.cpu.cached? pa).isSome then .ok () s
      else keepCopy { addr := pa, byte := v, type := .wt, dirty := false } s
  | .wp => (writeToMemory pa v s).bind fun _ s => .ok () (s.dropLine pa)
  | .ucPage => .ok () (s.setByteAndCopies pa v)
  | .ucMtrr => writeUnchecked pa v s
  | .uc => writeUnchecked pa v s
  | .wc =>
    if (s.copies pa).isEmpty then .ok () (s.setByte pa v) else .ok () (s.undefineByte pa)

/-- Write a byte of physical memory under memory type `t`. -/
def writeByte (pa : PhysAddr) (t : EffType) (v : Byte) (s : State) : Res Unit :=
  ifMemory pa s (writeBacked pa t v)

/-- `PhysWrite(pa, n, v)` under memory type `t`, the bytes from the lowest address up (R9, R34). After the
last physical address the next is 0: DESIGN CHOICE (log 41). -/
def physWrite (pa : PhysAddr) (t : EffType) : List Byte → State → Res Unit
  | [], s => .ok () s
  | v :: vs, s => (writeByte pa t v s).bind fun _ s => physWrite (pa + 1#36) t vs s

/-- Memory that has received every dirty byte of a list of cached bytes. -/
def writeBack (m : Memory) : List CacheLine → Memory
  | [] => m
  | l :: ls => if l.dirty then writeBack (m.write l.addr.toNat l.byte) ls else writeBack m ls

/-- The older values of the PAT after FlushTLB: those for which FlushCaches has occurred too are gone (R112). -/
def tlbFlushedPats (ps : List OlderPat) : List OlderPat :=
  (ps.filter (!·.cachesFlushed)).map fun p => { p with tlbFlushed := true }

/-- The older values of the PAT after FlushCaches: those for which FlushTLB has occurred too are gone (R112). -/
def cachesFlushedPats (ps : List OlderPat) : List OlderPat :=
  (ps.filter (!·.tlbFlushed)).map fun p => { p with cachesFlushed := true }

/-- A page reaches physical address `pa`. -/
def MappedFrame.reaches (f : MappedFrame) (pa : PhysAddr) : Bool :=
  pa.toNat / 2 ^ pageBits f.size == f.base.toNat / 2 ^ pageBits f.size

/-- Page `m` is mapped anew after page `f` (R115): they share bytes, and the PAT index is another. With the same index
it is the PAT that changed, of which R112 speaks (log 25). -/
def MappedFrame.remapsFrame (m f : MappedFrame) : Bool :=
  decide (m.idx ≠ f.idx) && (m.reaches f.base || f.reaches m.base)

/-- `FlushCaches` on the running processor: write back, then hold nothing (R30, R77; D16). It is step 4 of R115 on
this processor for the pages that are remapped by now: they are noted no longer as ones it may have used as cacheable,
and a remapped page is waited for no longer unless another processor may still have used it. -/
def State.flushCaches (s : State) : State :=
  { s with
    mem := writeBack s.mem s.cpu.cache
    remaps := s.remaps.filter fun m => s.others.any fun c => c.cacheable.any m.remapsFrame
    cpu := { s.cpu with
               cache := []
               olderPats := cachesFlushedPats s.cpu.olderPats
               cacheable := s.cpu.cacheable.filter fun f => !s.remaps.any fun m => m.remapsFrame f } }

/-- `FlushTLB` on the running processor: no translation made before is held (R29, R77). -/
def State.flushTlb (s : State) : State :=
  { s with cpu := { s.cpu with tlb := [], olderPats := tlbFlushedPats s.cpu.olderPats } }

end Sys2Proof.Machine
end

