-- ==== Sys2Proof/Machine/Aliasing.lean ====
section
/-! DEFINITION. The live mappings of physical memory, the accesses whose result they leave undefined, and the
accesses made while processors differ in their memory types (spec/60_exceptions.md R104;
spec/70_reset_and_hazards.md R113 to R115; log 24, log 25, log 35). -/

namespace Sys2Proof.Machine

open Sys2Proof

/-- How the page that maps an address gives its memory type: the page's size, the PAT index and the PAT
type the index selected when the translation was made or cached (R36, R60). -/
structure PageView where
  size : PageSize
  idx : BitVec 3
  pat : PatType
  deriving DecidableEq, Repr, Inhabited

/-- A live mapping: the linear page, its size, its physical base, its PAT index and the PAT type it gives, none
if its PAT field holds a reserved encoding. -/
structure Mapping where
  page : LinAddr
  size : PageSize
  base : PhysAddr
  idx : BitVec 3
  pat : Option PatType
  deriving DecidableEq, Repr, Inhabited

/-- The tables as they stand for a processor: memory, the bytes that any caches hold and memory has not
received, and of these the processor's own above the others'. -/
def State.tableView (s : State) (c : Cpu) : Memory :=
  writeBack ((s.cpu :: s.others).foldl (fun m d => writeBack m d.cache) s.mem) c.cache

/-- The present entries of the 4 KB structure at `base`, each with its number: an entry is present only if
its lowest byte has a value, so memory's own list names them all. -/
def presentEntries (m : Memory) (base : Nat) : List (Nat × Word) :=
  m.filterMap fun cell =>
    let i := (cell.1 - base) / 4
    if base ≤ cell.1 ∧ cell.1 < base + 4096 ∧ cell.1 = base + 4 * i then
      match m.read4 cell.1 with
      | some e => if entryPresent (e.setWidth 64) then some (i, e) else none
      | none => none
    else none

/-- The 4 KB pages mapped by the page table that entry `pde`, number `i` of its directory, points to. -/
def tableMappings (c : Cpu) (m : Memory) (i : Nat) (pde : Word) : List Mapping :=
  (presentEntries m (pde.toNat / 4096 * 4096)).map fun (j, pte) =>
    { page := BitVec.ofNat 32 (i * 2 ^ 22 + j * 2 ^ 12)
      size := .k4
      base := address4K pte 0#32
      idx := pteIndex (pte.setWidth 64)
      pat := patType? c.pat (pteIndex (pte.setWidth 64)) }

/-- The mappings of entry `pde`, number `i` of a processor's page directory: a 4 MB page, or a table's. -/
def entryMappings (c : Cpu) (m : Memory) (i : Nat) (pde : Word) : List Mapping :=
  if c.pse && pdePs (pde.setWidth 64) then
    if reserved4M pde then []
    else
      [{ page := BitVec.ofNat 32 (i * 2 ^ 22)
         size := .m4
         base := address4M pde 0#32
         idx := largeIndex (pde.setWidth 64)
         pat := patType? c.pat (largeIndex (pde.setWidth 64)) }]
  else tableMappings c m i pde

/-- An 8-byte entry of the PAE tables that is present and breaks no reserved bit (R47, R49). -/
def paeEntry? (s : State) (m : Memory) (level : Level) (at_ : PhysAddr) : Option QWord :=
  match m.read8 at_.toNat with
  | some e =>
    if entryPresent e && !(decide (level = .pde) && pdePs e && reserved2M e) && !paeReserved s level e then some e
    else none
  | none => none

/-- The base of the 2 MB page an 8-byte directory entry maps, its top four bits open (R47, R52). -/
def base2M (s : State) (pde : QWord) : PhysAddr :=
  address2M (paeAddress s (.page2M (withoutPatIndex .pde true pde))) pde 0#32

/-- The base of the 4 KB page an 8-byte table entry maps, open (R52). -/
def base4K (s : State) (pte : QWord) : PhysAddr :=
  inPage .k4 (paeAddress s (.page4K (withoutPatIndex .pte false pte))) 0#32

/-- The mapping of `la` by a processor's PAE tables in `m`, at the addresses of `WalkPAE` (R52). -/
def paeMapping? (s : State) (c : Cpu) (m : Memory) (la : LinAddr) : Option Mapping :=
  (paeEntry? s m .pdpte (paeAddress s (.pdpteAt c.cr3 la))).bind fun pdpte =>
    (paeEntry? s m .pde (paeAddress s (.pdeAt pdpte la))).bind fun pde =>
      if pdePs pde then
        some
          { page := pageStart .m2 la, size := .m2, base := base2M s pde, idx := largeIndex pde
            pat := patType? c.pat (largeIndex pde) }
      else
        (paeEntry? s m .pte (paeAddress s (.pteAt pde la))).map fun pte =>
          { page := pageStart .k4 la, size := .k4, base := base4K s pte, idx := pteIndex pte
            pat := patType? c.pat (pteIndex pte) }

/-- The mappings that a processor's tables hold: those of its page directory, or, under PAE, that of every page of the
linear address space. -/
def tableEntries (s : State) (c : Cpu) : List Mapping :=
  if c.pae then
    (List.range (2 ^ 20)).filterMap fun i => paeMapping? s c (s.tableView c) (BitVec.ofNat 32 (4096 * i))
  else
    (presentEntries (s.tableView c) (c.cr3.toNat / 4096 * 4096)).flatMap fun (i, pde) =>
      entryMappings c (s.tableView c) i pde

/-- The live mappings of a processor's tables. With `CR0.PG = 0` its tables give none: DESIGN CHOICE, R114 speaks of
live mappings "in the tables" and says nothing of PG (log 24). -/
def tablesOf (s : State) (c : Cpu) : List Mapping := if c.pg then tableEntries s c else []

/-- The mappings of a processor's TLB. -/
def tlbMappings (c : Cpu) : List Mapping :=
  c.tlb.map fun e => { page := e.page, size := e.size, base := e.base, idx := e.idx, pat := some e.pat }

/-- The live mappings of a processor (R114): those of its TLB and those of its tables. -/
def liveMappings (s : State) (c : Cpu) : List Mapping := tlbMappings c ++ tablesOf s c

/-- A mapping reaches physical address `pa`. -/
def Mapping.reaches (mp : Mapping) (pa : PhysAddr) : Bool :=
  pa.toNat / 2 ^ pageBits mp.size == mp.base.toNat / 2 ^ pageBits mp.size

/-- Two mappings of one processor that are one mapping, in its tables and in its TLB: the type may differ where
the PAT changed (R112). -/
def Mapping.same (a b : Mapping) : Bool :=
  a.page == b.page && a.size == b.size && a.base == b.base && a.idx == b.idx

/-- A mapping of a physical page by the processor at a position of the system (0 is the running one), with the
effective type it gives the page. -/
structure PageUse where
  owner : Nat
  mapping : Mapping
  type : Option EffType
  deriving DecidableEq, Repr, Inhabited

/-- The use a processor's mapping makes of `pa`. -/
def pageUse (c : Cpu) (owner : Nat) (pa : PhysAddr) (mp : Mapping) : PageUse :=
  { owner := owner
    mapping := mp
    type := match mp.pat with
      | some p => effectiveType? c pa (some p)
      | none => none }

/-- Every live use of the physical page at `pa`, over all processors. -/
def pageUses (s : State) (pa : PhysAddr) : List PageUse :=
  (s.cpu :: s.others).zipIdx.flatMap fun (c, owner) =>
    ((liveMappings s c).filter (·.reaches pa)).map (pageUse c owner pa)

/-- Two uses give the page different effective types. -/
def PageUse.conflicts (a b : PageUse) : Bool :=
  decide (a.type ≠ b.type) && !(a.owner == b.owner && a.mapping.same b.mapping)

/-- The uses of the page at `pa` that an access to it must look at: the live ones, and that of the mapping `own` of the
access itself. There is nothing to look at while every processor's accesses are UC (R65, R66). -/
def accessUses (s : State) (own : Option Mapping) (pa : PhysAddr) : List PageUse :=
  if (s.cpu :: s.others).all (fun c => !c.mtrrEnabled || c.cd) then []
  else own.toList.map (pageUse s.cpu 0 pa) ++ pageUses s pa

/-- R114: two live mappings of the page at `pa`, the access's own among them, differ in their effective types. -/
def aliased (uses : List PageUse) : Bool := uses.any fun a => uses.any fun b => a.conflicts b

/-- Some processor's caches hold a byte of the page of the given size at `pa`. -/
def State.cachesHold (s : State) (size : PageSize) (pa : PhysAddr) : Bool :=
  (s.cpu :: s.others).any fun c =>
    c.cache.any fun l => l.addr.toNat / 2 ^ pageBits size == pa.toNat / 2 ^ pageBits size

/-- R115: a live mapping gives the page at `pa` the effective type WC while some cache still holds a byte of the page,
as between steps 3 and 4 of the remapping procedure. -/
def staleUnderWc (s : State) (uses : List PageUse) (pa : PhysAddr) : Bool :=
  uses.any fun u => decide (u.type = some .wc) && s.cachesHold u.mapping.size pa

/-- The page a mapping maps, with its PAT type, if its PAT field holds one. -/
def Mapping.frame? (m : Mapping) : Option MappedFrame :=
  m.pat.map fun p => { size := m.size, base := m.base, idx := m.idx, pat := p }

/-- The effective type of a page at `pa` by the PAT and a processor's MTRRs (R64). -/
def MappedFrame.typeAt (f : MappedFrame) (c : Cpu) (pa : PhysAddr) : EffType := table92 f.pat (mtrrTypeAt c pa)

/-- A page may be cached by a processor: its PAT type is WT, WP or WB, or its effective type at its base is one. -/
def MappedFrame.mayBeCached (f : MappedFrame) (c : Cpu) : Bool :=
  [PatType.wt, .wp, .wb].contains f.pat || (f.typeAt c f.base).properties.cacheableReads

/-- A page may be used as WC by a processor: its PAT type is WC, or its effective type at its base is. -/
def MappedFrame.mayBeWc (f : MappedFrame) (c : Cpu) : Bool :=
  decide (f.pat = .wc) || decide (f.typeAt c f.base = .wc)

/-- A processor's accesses have the types that the PAT and the MTRRs give: they are not all UC (R65, R66). -/
def Cpu.formsTypes (c : Cpu) : Bool := c.mtrrEnabled && !c.cd

/-- A list with those of `new` that it lacks. -/
def withNew (old new : List MappedFrame) : List MappedFrame :=
  new.foldl (fun fs f => if fs.contains f then fs else f :: fs) old

/-- A processor with its live cacheable mappings noted: through each it may use the page, if only speculatively
(R115, R119). -/
def Cpu.noteCacheable (c : Cpu) (s : State) : Cpu :=
  if c.formsTypes then
    { c with
      cacheable := withNew c.cacheable (((liveMappings s c).filterMap Mapping.frame?).filter (·.mayBeCached c)) }
  else c

/-- The pages that mappings in a processor's TLB or tables, with paging enabled or not, map as WC. -/
def wcFrames (s : State) (c : Cpu) : List MappedFrame :=
  if c.formsTypes then ((tlbMappings c ++ tableEntries s c).filterMap Mapping.frame?).filter (·.mayBeWc c) else []

/-- The pages mapped as WC among whose bytes are some of a page of `cached`, pages that a processor may have used
through a cacheable mapping: step 3 of R115 is done, and step 4 is still to come. -/
def remapsNow (s : State) (cached : List MappedFrame) : List MappedFrame :=
  if cached.isEmpty then []
  else ((s.cpu :: s.others).flatMap (wcFrames s)).filter fun m => cached.any m.remapsFrame

/-- What a step begins with: the cacheable mappings and the remapped pages are noted, whatever becomes of the tables,
the TLBs and the paging flags before the caches are flushed (R115; log 25). -/
def State.noteMappings (s : State) : State :=
  let cpu := s.cpu.noteCacheable s
  let others := s.others.map fun c => Cpu.noteCacheable c s
  { s with
    cpu := cpu
    others := others
    remaps := withNew s.remaps (remapsNow s ((cpu :: others).flatMap (·.cacheable))) }

/-- R115: `pa` is in a page remapped as WC of which some processor may have used bytes as cacheable and not flushed its
caches since, whatever the caches hold. The types are judged at `pa`, and that of a page that does not reach it at its
base (log 25). -/
def State.remapping (s : State) (pa : PhysAddr) : Bool :=
  s.remaps.any fun m =>
    m.reaches pa && decide (m.typeAt s.cpu pa = .wc) &&
      (s.cpu :: s.others).any fun c =>
        c.cacheable.any fun f =>
          m.remapsFrame f && (f.typeAt c (if f.reaches pa then pa else f.base)).properties.cacheableReads

/-- An access to the byte at `pa` by the mapping `own`, or by none, is undefined whatever its own type is: the page is
aliased (R114), or is between steps 3 and 4 of its remapping as WC (R115), as what has been noted or what the caches
hold shows. -/
def undefinedAt (s : State) (own : Option Mapping) (pa : PhysAddr) : Bool :=
  let uses := accessUses s own pa
  aliased uses || staleUnderWc s uses pa || s.remapping pa

/-- The mapping that an access at `la` to `pa` through page `v` uses itself. -/
def ownMapping (la : LinAddr) (pa : PhysAddr) (v : PageView) : Mapping :=
  { page := pageStart v.size la, size := v.size, base := inPage v.size pa 0#32, idx := v.idx, pat := some v.pat }

/-- The result of an access at `la` to the `n` bytes from `pa` on with type `t` is undefined at one of them (R114,
R115; log 24); with paging disabled the access has no page of its own. -/
def undefinedAccess (s : State) (la : LinAddr) (pa : PhysAddr) (n : Nat) (page : Option PageView) (t : EffType) :
    Bool :=
  (physSpan pa n).any fun a =>
    match page with
    | some v => undefinedAt s (some (ownMapping la pa v)) a || decide (t = .wc) && s.cachesHold v.size a
    | none => undefinedAt s none a

/-- The result of an access to `n` bytes of a paging structure is undefined (R114, R115): it is made at physical
addresses and has no mapping of its own; the structure is a 4 KB page. -/
def undefinedStruct (s : State) (pa : PhysAddr) (n : Nat) (t : EffType) : Bool :=
  (physSpan pa n).any fun a => undefinedAt s none a || decide (t = .wc) && s.cachesHold .k4 a

/-- Two processors differ in what R104 has software keep equal: their PATs, an older value of one not being
flushed out, or what their MTRRs say of `pa` (log 35). -/
def Cpu.typesDifferAt (c d : Cpu) (pa : PhysAddr) : Bool :=
  decide (c.pat ≠ d.pat) || !c.olderPats.isEmpty || !d.olderPats.isEmpty ||
    decide (c.mtrrEnabled ≠ d.mtrrEnabled) || decide (mtrrTypeAt c pa ≠ mtrrTypeAt d pa)

/-- Go on with a load or store only where no other processor differs from the running one (R104, R113): all
physical memory is shared (R103). -/
def ifTypesAgree {α : Type} (addresses : List PhysAddr) (s : State) (k : State → Res α) : Res α :=
  match addresses.find? fun pa => s.others.any fun c => s.cpu.typesDifferAt c pa with
  | some pa => .refused (.memoryTypesDiffer pa)
  | none => k s

end Sys2Proof.Machine
end

