-- ==== Sys2Proof/Machine/Walk.lean ====
section
/-! DEFINITION. The walks through the paging structures (spec/20_memory.md R36 to R59; log 21, log 22,
log 37, log 39). -/

namespace Sys2Proof.Machine

open Sys2Proof

/-- What `Translate` returns (R36); with paging disabled there is no page. -/
structure Translation where
  pa : PhysAddr
  page : Option PageView
  deriving DecidableEq, Repr, Inhabited

/-- The effective type of an access to a paging structure: the same function as for any access, with the
structure's index (R59, R63, R112). -/
def structType (pa : PhysAddr) (idx : BitVec 3) (s : State) : Res EffType :=
  (patLookup idx s).bind fun p s => (accessPat idx p s).bind fun p s => effectiveType pa (some p) s

/-- Read `n` bytes of a paging structure under its type; free values where the result is undefined (R114,
R115). -/
def readStruct (pa : PhysAddr) (n : Nat) (idx : BitVec 3) (s : State) : Res (List Byte) :=
  (structType pa idx s).bind fun t s =>
    (physRead pa n t s).bind fun bs u => if undefinedStruct s pa n t then freeBytes n u else .ok bs u

/-- Write a byte of a paging structure under its type; its value is undefined where R114 and R115 say so. -/
def writeStruct (pa : PhysAddr) (idx : BitVec 3) (v : Byte) (s : State) : Res Unit :=
  (structType pa idx s).bind fun t s =>
    (writeByte pa t v s).bind fun _ u => .ok () (if undefinedStruct s pa 1 t then u.undefineByte pa else u)

/-- Read a 4-byte entry (R43, R51), as a 64-bit value whose upper half is zero. -/
def readEntry4 (pa : PhysAddr) (idx : BitVec 3) (s : State) : Res QWord :=
  (readStruct pa 4 idx s).bind fun bs s => .ok ((le32 bs).setWidth 64) s

/-- Read an 8-byte entry (R52). -/
def readEntry8 (pa : PhysAddr) (idx : BitVec 3) (s : State) : Res QWord :=
  (readStruct pa 8 idx s).bind fun bs s => .ok (le64 bs) s

/-- An entry together with where it was read and the index its structure is accessed with (R59). -/
structure EntryRef where
  level : Level
  value : QWord
  addr : PhysAddr
  idx : BitVec 3
  deriving DecidableEq, Repr, Inhabited

/-- The lowest byte of an entry with bit 5, A, and bit 6, D, as given (R42). -/
def withAdBits (b : Byte) (bits : AdBits) : Byte :=
  (b &&& 0x9F#8) ||| (if bits.accessed then 0x20#8 else 0#8) ||| (if bits.dirty then 0x40#8 else 0#8)

/-- `AccessedDirtyUpdate` of one entry (R42): bits 5 and 6 become what the parameter says, and the byte that
holds them is written if it changes, under the type of the structure it is in (R59; log 21). -/
def accessedDirtyUpdate (e : EntryRef) (access : Access) (completed : Bool) (s : State) : Res Unit :=
  let bits := lookupOr s.platform.accessedDirty Config.accessedDirty
    { level := e.level, entry := e.value, access := access, completed := completed }
  let low := e.value.extractLsb' 0 8
  if withAdBits low bits = low then .ok () s
  else writeStruct e.addr e.idx (withAdBits low bits) s

/-- `AccessedDirtyUpdate` of a list of entries, in order. -/
def accessedDirtyUpdates : List EntryRef → Access → Bool → State → Res Unit
  | [], _, _, s => .ok () s
  | e :: es, access, completed, s =>
    (accessedDirtyUpdate e access completed s).bind fun _ s => accessedDirtyUpdates es access completed s

/-- Raise the page fault of a failing entry, after whatever AccessedDirtyUpdate wrote at the levels
above it (R99). -/
def failWalk {α : Type} (above : List EntryRef) (present reserved : Bool) (access : Access) (la : LinAddr)
    (s : State) : Res α :=
  (accessedDirtyUpdates above access false s).bind fun _ s => raisePageFault present reserved access la s

/-- The end of a walk that found its page: update the entries used, and look the type up (R60). -/
def finishWalk (entries : List EntryRef) (size : PageSize) (pa : PhysAddr) (idx : BitVec 3) (access : Access)
    (s : State) : Res Translation :=
  (accessedDirtyUpdates entries access true s).bind fun _ s =>
    (patLookup idx s).bind fun p s => .ok { pa := pa, page := some { size := size, idx := idx, pat := p } } s

/-- The tests of a present entry in the order of R49: the reserved bits, then PermCheck. -/
def checkEntry {α : Type} (above : List EntryRef) (e : EntryRef) (reserved : Bool) (access : Access)
    (la : LinAddr) (s : State) (k : State → Res α) : Res α :=
  if !entryPresent e.value then failWalk above false false access la s
  else if reserved then failWalk above true true access la s
  else if !permitted s e.level e.value la access then failWalk above true false access la s
  else k s

/-- `Walk4M` (R44): the tests of the PDE, then the address and the index it gives. -/
def walk4M (pde : EntryRef) (access : Access) (la : LinAddr) (s : State) : Res Translation :=
  checkEntry [] pde (reserved4M (pde.value.setWidth 32)) access la s fun s =>
    finishWalk [pde] .m4 (address4M (pde.value.setWidth 32) la) (largeIndex pde.value) access s

/-- `Walk4K` (R51): the PDE points to a page table whose entry maps a 4 KB page; neither entry has reserved
bits. The page table is read with the index of the PDE (R59). -/
def walk4K (pde : EntryRef) (access : Access) (la : LinAddr) (s : State) : Res Translation :=
  checkEntry [] pde false access la s fun s =>
    let at_ := pteAddress (pde.value.setWidth 32) la
    (readEntry4 at_ (structIndex pde.value) s).bind fun v s =>
      let pte : EntryRef := { level := .pte, value := v, addr := at_, idx := structIndex pde.value }
      checkEntry [pde] pte false access la s fun s =>
        finishWalk [pde, pte] .k4 (address4K (v.setWidth 32) la) (pteIndex v) access s

/-- The index of the structure CR3 points to: `0 : CR3.PCD : CR3.PWT` (R59). -/
def cr3Index (c : Cpu) : BitVec 3 := patIndex false c.cr3Pcd c.cr3Pwt

/-- The walk without PAE (R36, R43): fetch the PDE, and go on as the PS flag and CR4.PSE say (R37). -/
def walk32 (access : Access) (la : LinAddr) (s : State) : Res Translation :=
  let at_ := pdeAddress s.cpu.cr3 la
  let idx := cr3Index s.cpu
  (readEntry4 at_ idx s).bind fun v s =>
    let pde : EntryRef := { level := .pde, value := v, addr := at_, idx := idx }
    if s.cpu.pse && pdePs v then walk4M pde access la s else walk4K pde access la s

/-- The last level of `WalkPAE`: an 8-byte PTE that maps a 4 KB page, PAT_i at bit 7 (R57, R58). -/
def walkPaePte (pdpte pde : EntryRef) (access : Access) (la : LinAddr) (s : State) : Res Translation :=
  let at_ := paeAddress s (.pteAt pde.value la)
  (readEntry8 at_ (structIndex pde.value) s).bind fun v s =>
    let pte : EntryRef := { level := .pte, value := v, addr := at_, idx := structIndex pde.value }
    checkEntry [pdpte, pde] pte (paeReserved s .pte v) access la s fun s =>
      finishWalk [pdpte, pde, pte] .k4 (inPage .k4 (base4K s v) la) (pteIndex v) access s

/-- The middle level of `WalkPAE`: an 8-byte PDE, which maps a 2 MB page if PS = 1, with bits 20:13 reserved
(R47), or points to a page table. -/
def walkPaePde (pdpte : EntryRef) (access : Access) (la : LinAddr) (s : State) : Res Translation :=
  let at_ := paeAddress s (.pdeAt pdpte.value la)
  (readEntry8 at_ (structIndex pdpte.value) s).bind fun v s =>
    let pde : EntryRef := { level := .pde, value := v, addr := at_, idx := structIndex pdpte.value }
    checkEntry [pdpte] pde ((pdePs v && reserved2M v) || paeReserved s .pde v) access la s fun s =>
      if pdePs v then
        finishWalk [pdpte, pde] .m2 (address2M (base2M s v) v la) (largeIndex v) access s
      else walkPaePte pdpte pde access la s

/-- `WalkPAE` (R52), as far as the sources fix it: three levels of 8-byte entries, the reserved bits of R47,
the PAT bits of R57 and R58, the structure types of R59; the addresses are open (log 22). -/
def walkPae (access : Access) (la : LinAddr) (s : State) : Res Translation :=
  let at_ := paeAddress s (.pdpteAt s.cpu.cr3 la)
  let idx := cr3Index s.cpu
  (readEntry8 at_ idx s).bind fun v s =>
    let pdpte : EntryRef := { level := .pdpte, value := v, addr := at_, idx := idx }
    checkEntry [] pdpte (paeReserved s .pdpte v) access la s fun s => walkPaePde pdpte access la s

/-- The walk of the paging mode in force (R36). -/
def walk (access : Access) (la : LinAddr) (s : State) : Res Translation :=
  if s.cpu.pae then walkPae access la s else walk32 access la s

end Sys2Proof.Machine
end

