-- ==== Sys2Proof/Machine/Translate.lean ====
section
/-! DEFINITION. The translation of a linear address, with the TLB (spec/10_state.md R29;
spec/20_memory.md R36, R38, R49, R60; spec/70_reset_and_hazards.md R112, R117; log 20). -/

namespace Sys2Proof.Machine

open Sys2Proof

/-- The page as the access through it sees it: with the type its translation gave, or the type of an older value of
the PAT (R112). -/
def accessPage (page : Option PageView) (s : State) : Res (Option PageView) :=
  match page with
  | none => .ok none s
  | some v => (accessPat v.idx v.pat s).bind fun p s => .ok (some { v with pat := p }) s

/-- A cached translation is for the page of `la`. -/
def TlbEntry.covers (e : TlbEntry) (la : LinAddr) : Bool := pageStart e.size la == pageStart e.size e.page

/-- Translate through a cached translation. It was checked when it entered and is not checked again (R49).
The type is the one it was cached with or the one the PAT holds now, as the processor chooses (R112). -/
def useTlbEntry (e : TlbEntry) (la : LinAddr) (s : State) : Res Translation :=
  let through (p : PatType) : Translation :=
    { pa := inPage e.size e.base la, page := some { size := e.size, idx := e.idx, pat := p } }
  (freeBool s).bind fun old s =>
    if old then .ok (through e.pat) s
    else (patLookup e.idx s).bind fun p s => .ok (through p) s

/-- An access may use any cached translation for its page instead of walking the tables (R29): one of
them, or the walk, as the processor chooses. -/
def translatePaged (access : Access) (la : LinAddr) (s : State) : Res Translation :=
  let held := s.cpu.tlb.filter (·.covers la)
  if held.isEmpty then walk access la s
  else
    match held[Config.choice s.freeCount % (held.length + 1)]? with
    | some e => useTlbEntry e la s.drawn
    | none => walk access la s.drawn

/-- `Translate(la)` (R36): with paging disabled the linear address extended with zeros (R38). -/
def translate (access : Access) (la : LinAddr) (s : State) : Res Translation :=
  if s.cpu.pg then translatePaged access la s
  else .ok { pa := la.setWidth 36, page := none } s

end Sys2Proof.Machine
end

