-- ==== Sys2Proof/Machine/Linear.lean ====
section
/-! DEFINITION. Linear memory accesses: `MemRead`, `MemWrite` and the instruction fetch
(spec/20_memory.md R32, R70, R71, R78; log 27, log 32). -/

namespace Sys2Proof.Machine

open Sys2Proof

/-- The part of an access that lies in one page (R71): its linear address, its translation, its effective
type, its length, and whether what it reads or leaves is undefined (R114, R115). -/
structure Part where
  la : LinAddr
  pa : PhysAddr
  type : EffType
  size : Nat
  undef : Bool
  deriving DecidableEq, Repr, Inhabited

/-- How many bytes from `la` on lie in its page; with paging disabled there is no page to leave. -/
def bytesInPage (tr : Translation) (la : LinAddr) (n : Nat) : Nat :=
  match tr.page with
  | some v => min n (2 ^ pageBits v.size - la.toNat % 2 ^ pageBits v.size)
  | none => min n (2 ^ 32 - la.toNat)

/-- Translate an access of `n` bytes at `la`, once for each page it touches (R71). `fuel` bounds the number
of parts; each part has at least one byte, so `n` is enough. The linear address after the last is 0: DESIGN
CHOICE (log 32). A page fault of a later part keeps what the completed walks of the parts before it wrote into
accessed and dirty bits, of the page's own entry too: DESIGN CHOICE, R99 names only the levels above the failing
entry (log 32). -/
def accessParts (access : Access) : Nat → LinAddr → Nat → State → Res (List Part)
  | 0, _, _, s => .ok [] s
  | fuel + 1, la, n, s =>
    if n = 0 then .ok [] s
    else
      (translate access la s).bind fun tr s =>
        (accessPage tr.page s).bind fun page s =>
          (effectiveType tr.pa (page.map (·.pat)) s).bind fun t s =>
            let k := bytesInPage tr la n
            let part : Part :=
              { la := la, pa := tr.pa, type := t, size := k, undef := undefinedAccess s la tr.pa k page t }
            (accessParts access fuel (la + BitVec.ofNat 32 k) (n - k) s).bind fun ps s => .ok (part :: ps) s

/-- Read one part: its bytes, or free values where they are undefined. -/
def readPart (p : Part) (s : State) : Res (List Byte) :=
  (physRead p.pa p.size p.type s).bind fun bs s =>
    if p.undef then freeBytes p.size s else .ok bs s

/-- Read every part, in order. -/
def readParts : List Part → State → Res (List Byte)
  | [], s => .ok [] s
  | p :: ps, s => (readPart p s).bind fun bs s => (readParts ps s).bind fun more s => .ok (bs ++ more) s

/-- The physical addresses of a part. -/
def Part.physAddrs (p : Part) : List PhysAddr := physSpan p.pa p.size

/-- The physical addresses of a part, as memory numbers them. -/
def Part.addresses (p : Part) : List Nat := p.physAddrs.map (·.toNat)

/-- `MemRead(addr, n)` of a load (R70): translate, form the effective type, read; nothing is read unless every
part translates, and no other processor differs in memory types (R104). -/
def memRead (la : LinAddr) (n : Nat) (s : State) : Res (List Byte) :=
  (accessParts .read n la n s).bind fun ps s => ifTypesAgree (ps.flatMap Part.physAddrs) s (readParts ps)

/-- Note that the program stored to these addresses (R78; log 27). -/
def State.noteStored (s : State) (as : List Nat) : State := { s with stored := as ++ s.stored }

/-- Write one part: its bytes, left with undefined values where R114 and R115 say so. -/
def writePart (p : Part) (bs : List Byte) (s : State) : Res Unit :=
  (physWrite p.pa p.type (bs.take p.size) s).bind fun _ s =>
    .ok () ((if p.undef then s.undefineBytes p.physAddrs else s).noteStored p.addresses)

/-- Write every part, in order. -/
def writeParts : List Part → List Byte → State → Res Unit
  | [], _, s => .ok () s
  | p :: ps, bs, s => (writePart p bs s).bind fun _ s => writeParts ps (bs.drop p.size) s

/-- `MemWrite(addr, n, v)` (R70), the bytes of `v` from the lowest address up; nothing is written unless
every part translates (R99), and no other processor differs in memory types (R104). -/
def memWrite (la : LinAddr) (bs : List Byte) (s : State) : Res Unit :=
  (accessParts .write bs.length la bs.length s).bind fun ps s =>
    ifTypesAgree (ps.flatMap Part.physAddrs) s (writeParts ps bs)

/-- The first physical address of the parts that the program stored to. -/
def firstStored (s : State) (ps : List Part) : Option Nat :=
  (ps.flatMap Part.addresses).find? fun a => s.stored.contains a

/-- The parts of the fetch at `pc`. An instruction that begins at the last linear address would continue at
address 0, which is refused (D17; log 10). -/
def fetchParts (s : State) : Res (List Part) :=
  if s.cpu.pc = 0xFFFFFFFF#32 then .refused .fetchWraps
  else accessParts .fetch instrLength s.cpu.pc instrLength s

/-- The instruction bytes: a `MemRead` at `pc` of two bytes (R78, R84). A byte that the program stored to is
refused (R78). -/
def fetchBytes (s : State) : Res (List Byte) :=
  (fetchParts s).bind fun ps s =>
    match firstStored s ps with
    | some a => .refused (.selfModifying (BitVec.ofNat 36 a))
    | none => readParts ps s

/-- The instruction at `pc` (R84): fetched before it is executed (R97), refused if it is not in the opcode
map (R79). -/
def fetchInstr (s : State) : Res Instr :=
  (fetchBytes s).bind fun bs s =>
    match decode bs with
    | .ok (i, _) => .ok i s
    | .error e => .refused (.undecodable e)

end Sys2Proof.Machine
end

