-- ==== Sys2Proof/Machine/Events.lean ====
section
/-! DEFINITION. The events beside the instructions (spec/10_state.md R19, R29, R30; spec/20_memory.md R70,
R77; spec/60_exceptions.md R103; spec/70_reset_and_hazards.md R119; log 1, log 38). -/

namespace Sys2Proof.Machine

open Sys2Proof

/-- A cached translation made from a walk's result. -/
def tlbEntryOf (la : LinAddr) (tr : Translation) (v : PageView) : TlbEntry :=
  { page := pageStart v.size la, size := v.size, base := inPage v.size tr.pa 0#32, idx := v.idx, pat := v.pat }

/-- What a speculative access that does not complete leaves: of one that would raise an exception, what its walk
read into the caches and wrote into accessed bits, but no exception, so CR2 as it was; of one that has no meaning,
nothing (log 38). -/
def State.speculationFailed (s : State) (f : Fault) : State :=
  match f with
  | .exception _ after => { after with cpu := { after.cpu with cr2 := s.cpu.cr2 } }
  | .unbacked _ => s
  | .unwritten _ => s

/-- A translation enters the TLB when the tables produce it (R29). -/
def State.tlbFill (s : State) (access : Access) (la : LinAddr) : State :=
  if s.cpu.pg then
    match walk access la s with
    | .ok tr t =>
      match tr.page with
      | some v => { t with cpu := { t.cpu with tlb := tlbEntryOf la tr v :: t.cpu.tlb } }
      | none => t
    | .fault f => s.speculationFailed f
    | .refused _ => s
  else s

/-- A copy of the byte at `pa` enters the caches if its type is cacheable for reads (R62), memory backs it
and has it, and no copy is held. -/
def State.fillByte (s : State) (pa : PhysAddr) (t : EffType) : State :=
  if t.properties.cacheableReads && s.platform.backing? pa.toNat == some .memory &&
      (s.cpu.cached? pa).isNone then
    match s.mem.read pa.toNat with
    | some b => s.setLine { addr := pa, byte := b, type := t, dirty := false }
    | none => s
  else s

/-- A speculative access to the byte at `la` (R62, R119). -/
def State.cacheFill (s : State) (access : Access) (la : LinAddr) : State :=
  match (translate access la s).bind fun tr s =>
      (accessPage tr.page s).bind fun page s =>
        (effectiveType tr.pa (page.map (·.pat)) s).bind fun t s => Res.ok (tr.pa, t) s with
  | .ok (pa, t) u => u.fillByte pa t
  | .fault f => s.speculationFailed f
  | .refused _ => s

/-- A cached byte leaves the caches, written back if memory has not received it. -/
def State.cacheDrop (s : State) (pa : PhysAddr) : State :=
  match s.cpu.cached? pa with
  | some l => if l.dirty then (s.setByte pa l.byte).dropLine pa else s.dropLine pa
  | none => s

/-- The `k`-th other processor runs from now on; there is nothing to do if there is none. -/
def State.runProcessor (s : State) (k : Nat) : State :=
  match s.others[k]? with
  | some c => { s with cpu := c, others := s.others.set k s.cpu }
  | none => s

/-- What an event does. The writes of control registers and of MTRRDefType leave the TLB and the caches as
they are (R117; D16). -/
def applyEvent (e : Event) (s : State) : Res Unit :=
  match e with
  | .flushTlb => .ok () s.flushTlb
  | .flushCaches => .ok () s.flushCaches
  | .tlbFill access la => .ok () (s.tlbFill access la)
  | .tlbDrop k => .ok () { s with cpu := { s.cpu with tlb := s.cpu.tlb.eraseIdx k } }
  | .cacheFill access la => .ok () (s.cacheFill access la)
  | .cacheDrop pa => .ok () (s.cacheDrop pa)
  | .setCr0 v => .ok () { s with cpu := { s.cpu with cr0 := v } }
  | .setCr3 v => .ok () { s with cpu := { s.cpu with cr3 := v } }
  | .setCr4 v => .ok () { s with cpu := { s.cpu with cr4 := v } }
  | .setMtrrDefType v => .ok () { s with cpu := { s.cpu with mtrrDefType := v } }
  | .memRead la n => (memRead la n s).bind fun bs t => .ok () { t with readData := bs }
  | .memWrite la bs => memWrite la bs s
  | .run k => .ok () (s.runProcessor k)

end Sys2Proof.Machine
end

