-- ==== Sys2Proof/Machine/Load.lean ====
section
/-! DEFINITION. Placing an instruction's bytes where the next fetch reads them: the load of a program from
outside the machine (log 31). -/

namespace Sys2Proof.Machine

open Sys2Proof

/-- Put byte `v` at physical address `pa` from outside: memory holds it, no cache has an older copy, and the
program did not store it. -/
def State.placeByte (s : State) (pa : PhysAddr) (v : Byte) : State :=
  let without (c : Cpu) : Cpu := { c with cache := c.cache.filter fun l => l.addr != pa }
  { s with
    cpu := without s.cpu
    others := s.others.map without
    mem := s.mem.write pa.toNat v
    stored := s.stored.filter (· != pa.toNat) }

/-- Put bytes at the physical addresses given, in order. -/
def State.placeBytes (s : State) : List Nat → List Byte → State
  | a :: as, b :: bs => (s.placeByte (BitVec.ofNat 36 a) b).placeBytes as bs
  | _, _ => s

/-- The physical addresses the next fetch reads: those its translation gives, or, where it stops, those of
the linear addresses themselves. -/
def State.fetchAddresses (s : State) : List Nat :=
  match fetchParts s with
  | .ok ps _ => ps.flatMap Part.addresses
  | .fault _ => [s.cpu.pc.toNat, (s.cpu.pc + 1#32).toNat]
  | .refused _ => [s.cpu.pc.toNat, (s.cpu.pc + 1#32).toNat]

/-- No other turn before the next instruction, and the bytes where the next fetch reads. -/
def State.loadAtFetch (s : State) (bs : List Byte) : State :=
  let t := { s with pending := [] }
  t.placeBytes t.fetchAddresses bs

end Sys2Proof.Machine
end

