-- ==== Sys2Proof/Machine/Step.lean ====
section
/-! DEFINITION. One step of the machine: the first pending turn, an event or an instruction, or, if there is
none, an instruction: its fetch, decoding and execution (spec/60_exceptions.md R97). -/

namespace Sys2Proof.Machine

open Sys2Proof

/-- Fetch, decode and execute one instruction. -/
def runInstr (s : State) : Host.Outcome State Fault Refusal :=
  match fetchInstr s with
  | .ok i t => exec i t
  | .fault f => .fault f
  | .refused r => .refused r

/-- The next step is an instruction: no turn is pending, or the first is one. -/
def State.instructionDue (s : State) : Bool :=
  match s.pending with
  | [] => true
  | .instruction :: _ => true
  | .event _ :: _ => false

/-- A step begins: the mappings as they are are noted (R115), and the first pending turn, if there is one, is
taken. -/
def State.nextTurn (s : State) : State := { s.noteMappings with pending := s.pending.tail }

/-- One step. -/
def step (s : State) : Host.Outcome State Fault Refusal :=
  match s.pending with
  | [] => runInstr s.nextTurn
  | .instruction :: _ => runInstr s.nextTurn
  | .event e :: _ => (applyEvent e s.nextTurn).outcome

/-- The state whose next step fetches and runs the instruction written as the opcode table's number `w` of
`nbits` bits. -/
def State.withFetchWord (s : State) (nbits w : Nat) : State := s.loadAtFetch (tableBytes nbits w)

end Sys2Proof.Machine
end

