-- ==== Sys2Proof/Safety.lean ====
section
/-! DEFINITION. What counts as a sound state, and the states that claims speak of (spec/10_state.md R22, R24, R28, R30;
spec/20_memory.md R49, R52, R65, R66; spec/60_exceptions.md R104). -/

namespace Sys2Proof.Machine

open Sys2Proof

/-- A processor is sound: every field of its PAT and of the older values still in use holds a defined encoding
(R22, R24), and its caches hold at most one copy of a byte (R30: a partial map from physical address to bytes). -/
def Cpu.sound (c : Cpu) : Bool := c.patsInUse.all patValueLegal && decide ((c.cache.map (·.addr)).Nodup)

/-- The invariant of the machine: every processor is sound, and memory has its canonical form (R28). -/
def State.inv (s : State) : Bool := (s.cpu :: s.others).all Cpu.sound && s.mem.wf

/-- The launch premise of R104, R110 and R113: every processor has the same PAT, with no older value in use, the
same MTRRDefType.E and the same MTRR type for every address (log 35). -/
def State.sameMemoryTypes (s : State) : Prop := ∀ c ∈ s.others, ∀ pa, s.cpu.typesDifferAt c pa = false

/-- The registers an instruction can name or that an exception saves, everything a processor has but its
TLB and caches. -/
def Cpu.sameRegisters (c d : Cpu) : Prop :=
  c.eax = d.eax ∧ c.ebx = d.ebx ∧ c.ecx = d.ecx ∧ c.edx = d.edx ∧ c.pc = d.pc ∧ c.cpl = d.cpl ∧
    c.cr0 = d.cr0 ∧ c.cr2 = d.cr2 ∧ c.cr3 = d.cr3 ∧ c.cr4 = d.cr4 ∧ c.pat = d.pat ∧ c.olderPats = d.olderPats ∧
    c.mtrrDefType = d.mtrrDefType ∧ c.mtrrs = d.mtrrs

/-- A processor but for the values of its cached bytes and whether memory has received them, both of which an access
of another processor that checks the caches may update (R68). -/
def Cpu.withoutBytes (c : Cpu) : Cpu :=
  { c with cache := c.cache.map fun l => { l with byte := 0#8, dirty := false } }

/-- Memory backs physical address `pa` and holds byte `b` there, and no processor's caches hold a copy. -/
def State.holdsAt (s : State) (pa : PhysAddr) (b : Byte) : Prop :=
  s.platform.backing? pa.toNat = some .memory ∧ s.mem.read pa.toNat = some b ∧
    ∀ c ∈ s.cpu :: s.others, c.cached? pa = none

/-- Every access of every processor is UC (R65, R66), no older value of the running processor's PAT is live (R112), and
no page remapped as WC waits for a flush of the caches (R115). -/
def State.plainStructures (s : State) : Prop :=
  (∀ c ∈ s.cpu :: s.others, c.mtrrEnabled = false ∨ c.cd = true) ∧ (∀ o ∈ s.cpu.olderPats, o.live = false) ∧
    s.remaps = []

/-- An access at `la` translates to `tr`, is made through `page` and has the effective type `ty` at the first address
of its part (R70); that leaves `t`. -/
def State.opens (s : State) (access : Access) (la : LinAddr) (tr : Translation) (page : Option PageView)
    (ty : EffType) (t : State) : Prop :=
  ∃ r, translate access la s = .ok tr r ∧ accessPage tr.page r = .ok page t ∧
    effectiveType tr.pa (page.map (·.pat)) t = .ok ty t

/-- The pointer-table entry `d` of `la` where `WalkPAE` reads it (R52). -/
def State.pdpteRef (s : State) (la : LinAddr) (d : QWord) : EntryRef :=
  { level := .pdpte, value := d, addr := paeAddress s (.pdpteAt s.cpu.cr3 la), idx := cr3Index s.cpu }

/-- The directory entry `v` of `la` that pointer-table entry `d` leads to. -/
def State.pdeRef (s : State) (la : LinAddr) (d v : QWord) : EntryRef :=
  { level := .pde, value := v, addr := paeAddress s (.pdeAt d la), idx := structIndex d }

/-- Under PAE, with no cached translation for `la`, the walk reads pointer-table entry `d`, which leaves `t`, and goes
on through it: it is present, breaks no reserved bit and permits the access (R52, R49). -/
def State.throughPdpte (s : State) (access : Access) (la : LinAddr) (d : QWord) (t : State) : Prop :=
  s.cpu.pg = true ∧ s.cpu.pae = true ∧ (∀ e ∈ s.cpu.tlb, e.covers la = false) ∧
    readEntry8 (s.pdpteRef la d).addr (cr3Index s.cpu) s = .ok d t ∧ d.getLsbD 0 = true ∧
    paeReserved s .pdpte d = false ∧ permitted s .pdpte d la access = true

/-- The walk then reads in `t` directory entry `v`, which leaves `u`, and goes on through it to a page table. -/
def State.throughPde (s : State) (access : Access) (la : LinAddr) (d v : QWord) (t u : State) : Prop :=
  readEntry8 (s.pdeRef la d v).addr (structIndex d) t = .ok v u ∧ v.getLsbD 0 = true ∧ v.getLsbD 7 = false ∧
    paeReserved s .pde v = false ∧ permitted s .pde v la access = true

end Sys2Proof.Machine
end

