-- ==== Sys2Proof/Certificates/Slice0/Obligations.lean ====
section
/-! DEFINITION. The statements for the provers, each from the numbered rules of spec/. A docstring names
the log entry where a statement rests on a choice of the model. -/

open Sys2Proof Sys2Proof.Machine

/-! Reset and encoding -/

/-- R23, R107: the PAT at reset, as a value and field by field. The fields' types are the source's table; that they
stand at bits 8i+7 to 8i of the register, and so the 64-bit value, is decision D11 of the spec (R21). -/
def Obligations.ResetPatValue : Prop :=
  State.reset.cpu.pat = 0x0007040600070406#64 ∧
    (List.range 8).map (fun i => PatType.ofEncoding? (patField State.reset.cpu.pat i)) =
      [some .wb, some .wt, some .ucMinus, some .uc, some .wb, some .wt, some .ucMinus, some .uc]

/-- R24, R28, R30: the invariant holds at reset. Empty memory and caches, and no older value of the PAT, are the
model's choice (log 4, log 7, log 34). -/
def Obligations.ResetSatisfiesInvariant : Prop := State.reset.inv = true

/-- R81: the three byte pairs, and the same pairs as the opcode table's numbers. The encodings are from general
knowledge, and the byte order of the table's numbers is read from R81 (log 9). -/
def Obligations.OpcodeMapDecodes : Prop :=
  decode [0x0F#8, 0xA2#8] = .ok (.cpuid, []) ∧ decode [0x0F#8, 0x32#8] = .ok (.rdmsr, []) ∧
    decode [0x0F#8, 0x30#8] = .ok (.wrmsr, []) ∧ decodeTableWord 16 0x0FA2 = some .cpuid ∧
    decodeTableWord 16 0x0F32 = some .rdmsr ∧ decodeTableWord 16 0x0F30 = some .wrmsr

/-- R79: the decoder admits exactly the encodings of the three instructions, all well-formed, and refuses
every other byte sequence by name, one of the three behind a further byte included. That the decoder does so is
decision D10 of the spec; the encodings are from general knowledge, and `truncated`, the name for fewer than two
bytes, is the model's (log 9). -/
def Obligations.DecodeAdmitsExactlyTheEncodings : Prop :=
  (∀ (bs : List Byte) (i : Instr) (rest : List Byte),
      decode bs = .ok (i, rest) ↔ i.wf = true ∧ bs = encode i ++ rest) ∧
    (∀ bs : List Byte, (∀ i rest, bs ≠ encode i ++ rest) →
      (bs.length < 2 ∧ decode bs = .error .truncated) ∨
        ∃ b0 b1 rest, bs = b0 :: b1 :: rest ∧ decode bs = .error (.notInAnySource b0 b1)) ∧
    ∀ (b : Byte) (i : Instr), decode (b :: encode i) = .error (.notInAnySource b 0x0F#8)

/-! CPUID, RDMSR, WRMSR -/

/-- R86: CPUID completes in every state. With `EAX = 1` it writes CpuidLeaf1 with EDX bits 17 and 16 set;
with any other input the four registers receive the next four free values; `pc` advances by 2 and nothing
else changes. -/
def Obligations.CpuidCompletesWithFeatureBits : Prop :=
  ∀ s : State,
    (s.cpu.eax = 1#32 →
      ∃ d : Word, d.getLsbD 17 = true ∧ d.getLsbD 16 = true ∧
        (∀ i, i ≠ 17 → i ≠ 16 → d.getLsbD i = Config.cpuidLeaf1.edx.getLsbD i) ∧
        exec .cpuid s = .next { s with cpu := { s.cpu with
          eax := Config.cpuidLeaf1.eax, ebx := Config.cpuidLeaf1.ebx, ecx := Config.cpuidLeaf1.ecx,
          edx := d, pc := s.cpu.pc + 2#32 } }) ∧
    (s.cpu.eax ≠ 1#32 →
      exec .cpuid s = .next { s with
        cpu := { s.cpu with
          eax := Config.freeWord s.freeCount, ebx := Config.freeWord (s.freeCount + 1),
          ecx := Config.freeWord (s.freeCount + 2), edx := Config.freeWord (s.freeCount + 3),
          pc := s.cpu.pc + 2#32 }
        freeCount := s.freeCount + 4 })

/-- R88: at ring 0 with `ECX = 277H`, RDMSR completes with the PAT in EDX:EAX and changes nothing else but
`pc`. -/
def Obligations.RdmsrReturnsPat : Prop :=
  ∀ s : State, s.cpu.cpl = 0#2 → s.cpu.ecx = 0x277#32 →
    exec .rdmsr s = .next { s with cpu := { s.cpu with
      edx := s.cpu.pat.extractLsb' 32 32, eax := s.cpu.pat.extractLsb' 0 32, pc := s.cpu.pc + 2#32 } }

/-- R89, R90: at ring 0 with `ECX = 277H` and every field of EDX:EAX one of 0, 1, 4, 5, 6, 7, WRMSR
completes with the PAT holding EDX:EAX. The value it held before, if it is another, is from then on an older value,
and a live one, under which accesses may still be made (R112), if the TLB holds translations or the caches hold
bytes (log 20). Nothing else changes but `pc`. -/
def Obligations.WrmsrWritesLegalPat : Prop :=
  ∀ s : State, s.cpu.cpl = 0#2 → s.cpu.ecx = 0x277#32 →
    (∀ i < 8, (s.cpu.edx ++ s.cpu.eax : QWord).extractLsb' (8 * i) 8 ∈ [0#8, 1#8, 4#8, 5#8, 6#8, 7#8]) →
    exec .wrmsr s = .next { s with cpu := { s.cpu with
      pat := s.cpu.edx ++ s.cpu.eax
      olderPats :=
        if s.cpu.pat = s.cpu.edx ++ s.cpu.eax then s.cpu.olderPats
        else
          { pat := s.cpu.pat, live := !(s.cpu.tlb.isEmpty && s.cpu.cache.isEmpty), tlbFlushed := false,
            cachesFlushed := false } :: s.cpu.olderPats
      pc := s.cpu.pc + 2#32 } }

/-- R89, R90, R94, R99, R100: one undefined encoding among the eight fields, and WRMSR raises general protection
with error code 0 (log 14) in the state it found: no field is written. -/
def Obligations.WrmsrBadFieldWritesNothing : Prop :=
  ∀ (s : State) (i : Nat), s.cpu.cpl = 0#2 → s.cpu.ecx = 0x277#32 → i < 8 →
    (s.cpu.edx ++ s.cpu.eax : QWord).extractLsb' (8 * i) 8 ∉ [0#8, 1#8, 4#8, 5#8, 6#8, 7#8] →
    exec .wrmsr s = .fault (.exception (.generalProtection 0#32) s)

/-- R91 with D8: outside ring 0 both MSR instructions raise general protection with error code 0, whatever the address
and the value, and leave the state as it was. R27 with D8: at ring 0 an address other than 277H is refused by name, in
all 32 bits of ECX. -/
def Obligations.MsrAccessStops : Prop :=
  (∀ (s : State) (i : Instr), s.cpu.cpl ≠ 0#2 → i = .rdmsr ∨ i = .wrmsr →
    exec i s = .fault (.exception (.generalProtection 0#32) s)) ∧
  ∀ (s : State) (i : Instr), s.cpu.cpl = 0#2 → s.cpu.ecx ≠ 0x277#32 → i = .rdmsr ∨ i = .wrmsr →
    exec i s = .refused (.msrNotInSource s.cpu.ecx)

/-- R24, R88, R89: what RDMSR read, WRMSR writes back without a fault, from every state whose PAT is legal; what
WRMSR wrote, RDMSR reads back. -/
def Obligations.MsrReadWriteRoundTrips : Prop :=
  (∀ s : State, s.cpu.cpl = 0#2 → s.cpu.ecx = 0x277#32 → patValueLegal s.cpu.pat = true →
    ∃ t u, exec .rdmsr s = .next t ∧ exec .wrmsr t = .next u ∧ u.cpu.pat = s.cpu.pat ∧
      u.cpu.edx ++ u.cpu.eax = s.cpu.pat ∧ u.cpu.pc = s.cpu.pc + 4#32) ∧
  ∀ s : State, s.cpu.cpl = 0#2 → s.cpu.ecx = 0x277#32 →
    patValueLegal (s.cpu.edx ++ s.cpu.eax) = true →
    ∃ t u, exec .wrmsr s = .next t ∧ exec .rdmsr t = .next u ∧ u.cpu.pat = s.cpu.edx ++ s.cpu.eax ∧
      u.cpu.edx = s.cpu.edx ∧ u.cpu.eax = s.cpu.eax ∧ u.cpu.ecx = s.cpu.ecx ∧ u.cpu.pc = s.cpu.pc + 4#32

/-- R10, R11, R19, R82, R102, R104: the frame of the three instructions. Every byte of memory, every other
processor, the control registers, CPL, MTRRs, TLB and caches are unchanged; EBX and ECX but by CPUID; EAX and
EDX but by CPUID and RDMSR; the PAT and its older values in use but by WRMSR. -/
def Obligations.InstructionFrame : Prop :=
  ∀ (i : Instr) (s t : State), exec i s = .next t →
    (∀ a, t.mem.read a = s.mem.read a) ∧ t.others = s.others ∧ t.platform = s.platform ∧
      t.remaps = s.remaps ∧ t.stored = s.stored ∧ t.pending = s.pending ∧ t.readData = s.readData ∧
      t.cpu.id = s.cpu.id ∧ t.cpu.cpl = s.cpu.cpl ∧ t.cpu.cr0 = s.cpu.cr0 ∧ t.cpu.cr2 = s.cpu.cr2 ∧
      t.cpu.cr3 = s.cpu.cr3 ∧ t.cpu.cr4 = s.cpu.cr4 ∧ t.cpu.mtrrDefType = s.cpu.mtrrDefType ∧
      t.cpu.mtrrs = s.cpu.mtrrs ∧ t.cpu.tlb = s.cpu.tlb ∧ t.cpu.cache = s.cpu.cache ∧
      t.cpu.cacheable = s.cpu.cacheable ∧ t.cpu.pc = s.cpu.pc + 2#32 ∧
      (i ≠ .cpuid → t.cpu.ebx = s.cpu.ebx ∧ t.cpu.ecx = s.cpu.ecx ∧ t.freeCount = s.freeCount) ∧
      (i = .wrmsr → t.cpu.eax = s.cpu.eax ∧ t.cpu.edx = s.cpu.edx) ∧
      (i ≠ .wrmsr → t.cpu.pat = s.cpu.pat ∧ t.cpu.olderPats = s.cpu.olderPats)

/-! Memory types -/

/-- R24, R60, R89: the lookup is total on a legal PAT and gives the type whose encoding the whole field holds; a
translation looks its type up in the PAT as it is, without change of state. R112: an access is made under its
translation's type or, while older values of the PAT are live, the type one of them gives (log 20). -/
def Obligations.LegalPatLookupIsTotal : Prop :=
  (∀ (pat : QWord) (idx : BitVec 3), patValueLegal pat = true →
    ∃ p, patType? pat idx = some p ∧ p.encoding = patField pat idx.toNat) ∧
  (∀ (s : State) (idx : BitVec 3), patValueLegal s.cpu.pat = true →
    ∃ p, patLookup idx s = .ok p s ∧ p.encoding = patField s.cpu.pat idx.toNat) ∧
  ∀ (s : State) (idx : BitVec 3) (p : PatType),
    (∀ o ∈ s.cpu.olderPats, o.live = true → patValueLegal o.pat = true) →
    ∃ q t, accessPat idx p s = .ok q t ∧
      (q = p ∨ ∃ o ∈ s.cpu.olderPats, o.live = true ∧ q.encoding = patField o.pat idx.toNat) ∧
      t.cpu = s.cpu ∧ t.mem = s.mem ∧ ((∀ o ∈ s.cpu.olderPats, o.live = false) → q = p ∧ t = s)

/-- R56: the index is PAT_i, PCD and PWT from the most significant bit down, all three of the one entry that maps the
page, and it selects field `PA<idx>`; Table 9-1 row by row, with the types at reset. R57: PAT_i is bit 7 of a
page-table entry and bit 12 of a directory entry that maps a large page, and all eight PAT entries are available to
each. Where the fields lie in the register (D11), and where PCD and PWT lie in an entry (R42, PRESUMED, log 39), is no
part of this. -/
def Obligations.PatIndexFollowsTable91 : Prop :=
  (∀ pati pcd pwt : Bool,
    (patIndex pati pcd pwt).toNat = 4 * pati.toNat + 2 * pcd.toNat + pwt.toNat) ∧
  (∀ (pat : QWord) (idx : BitVec 3),
    patType? pat idx = PatType.ofEncoding? (patField pat idx.toNat &&& 0x07#8)) ∧
  ([(false, false, false), (false, false, true), (false, true, false), (false, true, true),
      (true, false, false), (true, false, true), (true, true, false), (true, true, true)].map
        fun (pati, pcd, pwt) =>
          ((patIndex pati pcd pwt).toNat, patType? State.reset.cpu.pat (patIndex pati pcd pwt))) =
    [(0, some .wb), (1, some .wt), (2, some .ucMinus), (3, some .uc),
      (4, some .wb), (5, some .wt), (6, some .ucMinus), (7, some .uc)] ∧
  (∀ e : QWord, pteIndex e = patIndex (e.getLsbD 7) (entryPcd e) (entryPwt e) ∧
    largeIndex e = patIndex (e.getLsbD 12) (entryPcd e) (entryPwt e)) ∧
  ∀ idx : BitVec 3, (∃ e, pteIndex e = idx) ∧ ∃ e, pdePs e = true ∧ largeIndex e = idx

/-- R109, R54: at reset the PAT gives the types of a processor without it, for both values of PAT_i. The spec
derives this, and the types of PCD = 0, from the reset values. -/
def Obligations.ResetPatIsBackwardCompatible : Prop :=
  ∀ pati pcd pwt : Bool, patType? patReset (patIndex pati pcd pwt) = some (legacyPageType pcd pwt)

/-- R61, R25: the encodings of Table 9-3, the same in the PAT and in the MTRRs but for encoding 7, which is legal in
the PAT only. That 8 to 255 are reserved is the reading of 90_conflicts.md C3, and the MTRRs' set is what R25
derives. -/
def Obligations.PatEncodings : Prop :=
  [PatType.uc, .wc, .wt, .wp, .wb, .ucMinus].map PatType.encoding = [0#8, 1#8, 4#8, 5#8, 6#8, 7#8] ∧
    (∀ (b : Byte) (p : PatType), PatType.ofEncoding? b = some p ↔ b = p.encoding) ∧
    (∀ b : Byte, PatType.ofEncoding? b = none ↔ b.toNat = 2 ∨ b.toNat = 3 ∨ 8 ≤ b.toNat) ∧
    [0#8, 1#8, 4#8, 5#8, 6#8].map MtrrType.ofEncoding? = [some .uc, some .wc, some .wt, some .wp, some .wb] ∧
    ∀ b : Byte, MtrrType.ofEncoding? b = none ↔ b.toNat = 2 ∨ b.toNat = 3 ∨ 7 ≤ b.toNat

/-- R64: Table 9-2 row by row, at the MTRR types in the order UC, WC, WT, WP, WB; of a cell that reads "Undefined" it
says nothing. -/
def Obligations.EffectiveTypeTable : Prop :=
  let row (p : PatType) (ms : List MtrrType) := ms.map (table92 p)
  row .ucMinus [.uc, .wc, .wt, .wb] = [.ucMtrr, .wc, .ucPage, .ucPage] ∧
    row .uc [.uc, .wc, .wt, .wp, .wb] = [.ucMtrr, .ucPage, .ucPage, .ucPage, .ucPage] ∧
    row .wc [.uc, .wc, .wt, .wp, .wb] = [.wc, .wc, .wc, .wc, .wc] ∧
    row .wt [.uc, .wt, .wb] = [.ucMtrr, .wt, .wt] ∧
    row .wp [.uc, .wp, .wb] = [.ucMtrr, .wp, .wp] ∧
    row .wb [.uc, .wc, .wt, .wp, .wb] = [.ucMtrr, .wc, .wt, .wp, .wb]

/-- R63, R65, R66, R69: with the MTRRs disabled by bit 11 every access is UC, whatever the page's type and CR0 say
(that a WC page is UC too is the resolution of 90_conflicts.md C6, log 18; that CR0 is looked at later is the order
of R63, log 16). With the MTRRs enabled, CD = 1 gives UC whatever NW is; CD = 0 with NW = 1 is refused; otherwise
Table 9-2 applies to a page, and the MTRR type alone with paging disabled, its UC being UC_MTRR (log 40). R67: that
the cells of Table 9-2 that read "Undefined" are an open parameter is decision D12 of the spec (log 19). -/
def Obligations.EffectiveTypeByCacheFlags : Prop :=
  (∀ p m, (p, m) ∈ [(PatType.ucMinus, MtrrType.wp), (.wt, .wc), (.wt, .wp), (.wp, .wc), (.wp, .wt)] →
    table92 p m = Config.undefEffType p m) ∧
  (∀ (c : Cpu) (pa : PhysAddr) (page : Option PatType), c.mtrrDefType.getLsbD 11 = false →
    effectiveType? c pa page = some .uc) ∧
  ∀ (s : State) (pa : PhysAddr) (page : Option PatType), s.cpu.mtrrDefType.getLsbD 11 = true →
    (s.cpu.cr0.getLsbD 30 = true → effectiveType pa page s = .ok .uc s) ∧
    (s.cpu.cr0.getLsbD 30 = false → s.cpu.cr0.getLsbD 29 = true →
      effectiveType pa page s = .refused .cacheControl) ∧
    (s.cpu.cr0.getLsbD 30 = false → s.cpu.cr0.getLsbD 29 = false →
      (∀ p, effectiveType pa (some p) s = .ok (table92 p (mtrrTypeAt s.cpu pa)) s) ∧
      ∀ m e, (m, e) ∈
          [(MtrrType.uc, EffType.ucMtrr), (.wc, .wc), (.wt, .wt), (.wp, .wp), (.wb, .wb)] →
        mtrrTypeAt s.cpu pa = m → effectiveType pa none s = .ok e s)

/-! Paging formats -/

/-- R37: Table 3-1, over all sixteen combinations of the flags, on this hardware and, for its fourth row, on a
processor without PSE-36. -/
def Obligations.PagingModeTable : Prop :=
  (∀ pae pse ps : Bool,
    pagingMode false pae pse ps = .disabled ∧
    pagingMode true false false ps = .k4Phys32 ∧
    pagingMode true false true false = .k4Phys32 ∧
    pagingMode true false true true = .m4Phys36 ∧
    pagingMode true true pse false = .k4Phys36 ∧
    pagingMode true true pse true = .m2Phys36) ∧
  [PagingMode.disabled, .k4Phys32, .m4Phys36, .k4Phys36, .m2Phys36].map (fun m => (m.pageSize?, m.physBits?)) =
    [(none, none), (some .k4, some 32), (some .m4, some 36), (some .k4, some 36), (some .m2, some 36)] ∧
  (PagingMode.m4Phys36.physBitsWith? false = some 32 ∧
    ∀ m : PagingMode, m ≠ .m4Phys36 → m.physBitsWith? false = m.physBits?)

/-- R43 (base from D3): a directory entry lies below 4 GB, at the directory's base plus four times the top
ten bits of the linear address. -/
def Obligations.PdeAddressIsBasePlusIndex : Prop :=
  ∀ (cr3 : Word) (la : LinAddr),
    (pdeAddress cr3 la).toNat = cr3.toNat / 4096 * 4096 + 4 * (la.toNat / 2 ^ 22) ∧
      (pdeAddress cr3 la).toNat < 2 ^ 32 ∧ (pdeAddress cr3 la).toNat % 4 = 0

/-- R44: PA-2 gives address bits 35:32, PA-1 bits 31:22, the low 22 bits of the linear address the rest:
no carry. -/
def Obligations.LargePageAddressIsSum : Prop :=
  ∀ (pde : Word) (la : LinAddr),
    (address4M pde la).toNat =
      (pde.toNat / 2 ^ 13 % 2 ^ 4) * 2 ^ 32 + (pde.toNat / 2 ^ 22) * 2 ^ 22 + la.toNat % 2 ^ 22

/-- R41: an entry whose PA-2 is zero translates as on a processor without PSE-36: below 4 GB, from PA-1 and
the offset. -/
def Obligations.ZeroPa2TranslatesAsBefore : Prop :=
  ∀ (pde : Word) (la : LinAddr), pde.extractLsb' 13 4 = 0#4 →
    (address4M pde la).toNat = (pde.toNat / 2 ^ 22) * 2 ^ 22 + la.toNat % 2 ^ 22 ∧
      (address4M pde la).toNat < 2 ^ 32

/-- R45: every 4 MB page of the 36-bit space has an entry that maps it: present, PS = 1, reserved bits
zero. -/
def Obligations.EveryLargePageHasAnEntry : Prop :=
  ∀ base : PhysAddr, base.toNat % 2 ^ 22 = 0 →
    ∃ pde : Word, pde.getLsbD 0 = true ∧ pde.getLsbD 7 = true ∧ reserved4M pde = false ∧
      ∀ la : LinAddr, (address4M pde la).toNat = base.toNat + la.toNat % 2 ^ 22

/-- R48, R57: the PAT index bit of a large-page entry, bit 12, is not among its reserved bits (21:17 of a 4 MB
entry, 20:13 of a 2 MB entry) and not in the address; it is the top bit of the index. Neither it nor bit 7 of a
page-table entry plays a part in the reserved bits of PAE entries that are left open (log 22) or in PermCheck
(log 37). -/
def Obligations.PatBitIsNotReserved : Prop :=
  (∀ (pde : Word) (la : LinAddr),
    reserved4M (pde ^^^ 0x1000#32) = reserved4M pde ∧
      address4M (pde ^^^ 0x1000#32) la = address4M pde la ∧
      largeIndex ((pde ^^^ 0x1000#32).setWidth 64) = largeIndex (pde.setWidth 64) ^^^ 4#3) ∧
    ∀ (s : State) (e : QWord) (la : LinAddr) (access : Access),
      reserved2M (e ^^^ 0x1000#64) = reserved2M e ∧
      paeReserved s .pte (e ^^^ 0x80#64) = paeReserved s .pte e ∧
      permitted s .pte (e ^^^ 0x80#64) la access = permitted s .pte e la access ∧
      (e.getLsbD 7 = true → paeReserved s .pde (e ^^^ 0x1000#64) = paeReserved s .pde e) ∧
      (e.getLsbD 7 = true → s.cpu.pae = true ∨ s.cpu.pse = true →
        permitted s .pde (e ^^^ 0x1000#64) la access = permitted s .pde e la access)

/-- R120, R59: a page directory or page table is accessed with one of the first four PAT entries, selected by
PCD and PWT alone. -/
def Obligations.StructuresUseFirstFourPatEntries : Prop :=
  (∀ e : QWord, (structIndex e).toNat = 2 * (e.getLsbD 4).toNat + (e.getLsbD 3).toNat ∧
      (structIndex e).toNat < 4) ∧
    ∀ c : Cpu, (cr3Index c).toNat = 2 * (c.cr3.getLsbD 4).toNat + (c.cr3.getLsbD 3).toNat ∧
      (cr3Index c).toNat < 4

/-- R116: four bytes used both as a PTE and as a PDE select PAT entries 4 to 7 as a PTE exactly where they
have the PS bit set as a PDE. -/
def Obligations.SharedEntryPatBitIsPs : Prop :=
  ∀ v : Word, 4 ≤ (pteIndex (v.setWidth 64)).toNat ↔ pdePs (v.setWidth 64) = true

/-! Translation -/

/-- R46: with the 4 MB mode in force and no cached translation, a present entry with a nonzero bit among
21:17 raises a page fault with error-code bit 3 set, whatever the rest of the entry; the linear address goes
to CR2 (R93) and nothing else changes after the entry's read. -/
def Obligations.ReservedBitOf4MPdeFaults : Prop :=
  ∀ (s t : State) (access : Access) (la : LinAddr) (v : QWord),
    s.cpu.pg = true → s.cpu.pae = false → s.cpu.pse = true → (∀ e ∈ s.cpu.tlb, e.covers la = false) →
    readEntry4 (pdeAddress s.cpu.cr3 la) (cr3Index s.cpu) s = .ok v t →
    v.getLsbD 0 = true → v.getLsbD 7 = true → v.extractLsb' 17 5 ≠ 0#5 →
    ∃ ec : Word, ec.getLsbD 3 = true ∧ ec.getLsbD 0 = true ∧
      translate access la s =
        .fault (.exception (.pageFault ec la) { t with cpu := { t.cpu with cr2 := la } })

/-- R47: under PAE, through a present and permitted pointer-table entry, a present directory entry with PS = 1 and
a nonzero bit among 20:13 raises a page fault with error-code bit 3 set, after the update of the entry above it
(R99; log 22). Bit 0 of the error code (log 13) and the linear address in CR2 (log 12) are R93's. -/
def Obligations.ReservedBitOf2MPdeFaults : Prop :=
  ∀ (s t u w : State) (access : Access) (la : LinAddr) (d v : QWord),
    s.cpu.pg = true → s.cpu.pae = true → (∀ e ∈ s.cpu.tlb, e.covers la = false) →
    readEntry8 (paeAddress s (.pdpteAt s.cpu.cr3 la)) (cr3Index s.cpu) s = .ok d t →
    d.getLsbD 0 = true → paeReserved s .pdpte d = false → permitted s .pdpte d la access = true →
    readEntry8 (paeAddress s (.pdeAt d la)) (structIndex d) t = .ok v u → v.getLsbD 0 = true →
    v.getLsbD 7 = true → v.extractLsb' 13 8 ≠ 0#8 →
    accessedDirtyUpdates
      [{ level := .pdpte, value := d, addr := paeAddress s (.pdpteAt s.cpu.cr3 la), idx := cr3Index s.cpu }]
      access false u = .ok () w →
    ∃ ec : Word, ec.getLsbD 3 = true ∧ ec.getLsbD 0 = true ∧
      translate access la s =
        .fault (.exception (.pageFault ec la) { w with cpu := { w.cpu with cr2 := la } })

/-- R49: an entry with P = 0 raises a page fault with error-code bits 0 and 3 clear, whatever its other bits, after
the update of the entries above it (R99): a directory entry, a page-table entry, and under PAE a pointer-table entry,
a directory entry and a page-table entry. That bit 0 of an 8-byte entry is P is PRESUMED (log 22); the linear address
in CR2 is R93's (log 12). -/
def Obligations.NotPresentPdeFaults : Prop :=
  (∀ (s t : State) (access : Access) (la : LinAddr) (v : QWord),
    s.cpu.pg = true → s.cpu.pae = false → (∀ e ∈ s.cpu.tlb, e.covers la = false) →
    readEntry4 (pdeAddress s.cpu.cr3 la) (cr3Index s.cpu) s = .ok v t → v.getLsbD 0 = false →
    ∃ ec : Word, ec.getLsbD 3 = false ∧ ec.getLsbD 0 = false ∧
      translate access la s =
        .fault (.exception (.pageFault ec la) { t with cpu := { t.cpu with cr2 := la } })) ∧
  (∀ (s t u w : State) (access : Access) (la : LinAddr) (v x : QWord),
    s.cpu.pg = true → s.cpu.pae = false → (s.cpu.pse && v.getLsbD 7) = false →
    (∀ e ∈ s.cpu.tlb, e.covers la = false) →
    readEntry4 (pdeAddress s.cpu.cr3 la) (cr3Index s.cpu) s = .ok v t →
    v.getLsbD 0 = true → permitted s .pde v la access = true →
    readEntry4 (pteAddress (v.setWidth 32) la) (structIndex v) t = .ok x u → x.getLsbD 0 = false →
    accessedDirtyUpdates
      [{ level := .pde, value := v, addr := pdeAddress s.cpu.cr3 la, idx := cr3Index s.cpu }] access false u =
        .ok () w →
    ∃ ec : Word, ec.getLsbD 3 = false ∧ ec.getLsbD 0 = false ∧
      translate access la s =
        .fault (.exception (.pageFault ec la) { w with cpu := { w.cpu with cr2 := la } })) ∧
  (∀ (s t : State) (access : Access) (la : LinAddr) (d : QWord),
    s.cpu.pg = true → s.cpu.pae = true → (∀ e ∈ s.cpu.tlb, e.covers la = false) →
    readEntry8 (paeAddress s (.pdpteAt s.cpu.cr3 la)) (cr3Index s.cpu) s = .ok d t → d.getLsbD 0 = false →
    ∃ ec : Word, ec.getLsbD 3 = false ∧ ec.getLsbD 0 = false ∧
      translate access la s =
        .fault (.exception (.pageFault ec la) { t with cpu := { t.cpu with cr2 := la } })) ∧
  (∀ (s t u w : State) (access : Access) (la : LinAddr) (d v : QWord),
    s.throughPdpte access la d t →
    readEntry8 (paeAddress s (.pdeAt d la)) (structIndex d) t = .ok v u → v.getLsbD 0 = false →
    accessedDirtyUpdates [s.pdpteRef la d] access false u = .ok () w →
    ∃ ec : Word, ec.getLsbD 3 = false ∧ ec.getLsbD 0 = false ∧
      translate access la s =
        .fault (.exception (.pageFault ec la) { w with cpu := { w.cpu with cr2 := la } })) ∧
  ∀ (s t u w x : State) (access : Access) (la : LinAddr) (d v e : QWord),
    s.throughPdpte access la d t → s.throughPde access la d v t u →
    readEntry8 (paeAddress s (.pteAt v la)) (structIndex v) u = .ok e w → e.getLsbD 0 = false →
    accessedDirtyUpdates [s.pdpteRef la d, s.pdeRef la d v] access false w = .ok () x →
    ∃ ec : Word, ec.getLsbD 3 = false ∧ ec.getLsbD 0 = false ∧
      translate access la s =
        .fault (.exception (.pageFault ec la) { x with cpu := { x.cpu with cr2 := la } })

/-- R44, R57, R60, R89: a present, permitted 4 MB entry with bits 21:17 zero translates by concatenation, with
the type that its PAT, PCD and PWT bits select in the PAT as it is, after the update of its accessed and dirty
bits. R34, R43, R51, R52: an entry is the bytes of memory from its address up (modulo 2^36, DESIGN CHOICE, log 41),
lowest first, where memory backs and holds them, no cache does, and the access is not undefined (R114, R115): under
every type the structure may have (R59), with memory as it was; and with nothing changed at all where every access is
UC, no older value of the PAT is live and no remapped page is noted (log 25). -/
def Obligations.LargePageTranslates : Prop :=
  (∀ (s t u : State) (access : Access) (la : LinAddr) (v : QWord) (p : PatType),
    s.cpu.pg = true → s.cpu.pae = false → s.cpu.pse = true → (∀ e ∈ s.cpu.tlb, e.covers la = false) →
    readEntry4 (pdeAddress s.cpu.cr3 la) (cr3Index s.cpu) s = .ok v t →
    v.getLsbD 0 = true → v.getLsbD 7 = true → v.extractLsb' 17 5 = 0#5 →
    permitted s .pde v la access = true →
    accessedDirtyUpdate { level := .pde, value := v, addr := pdeAddress s.cpu.cr3 la, idx := cr3Index s.cpu }
      access true t = .ok () u →
    patType? s.cpu.pat (patIndex (v.getLsbD 12) (v.getLsbD 4) (v.getLsbD 3)) = some p →
    translate access la s = .ok
      { pa := v.extractLsb' 13 4 ++ v.extractLsb' 22 10 ++ la.extractLsb' 0 22
        page := some { size := .m4, idx := patIndex (v.getLsbD 12) (v.getLsbD 4) (v.getLsbD 3), pat := p } } u) ∧
  (∀ (s : State) (pa : PhysAddr) (idx : BitVec 3) (b0 b1 b2 b3 : Byte),
    s.plainStructures → patValueLegal s.cpu.pat = true →
    s.holdsAt pa b0 → s.holdsAt (pa + 1#36) b1 → s.holdsAt (pa + 2#36) b2 → s.holdsAt (pa + 3#36) b3 →
    readEntry4 pa idx s = .ok ((b3 ++ b2 ++ b1 ++ b0).setWidth 64) s) ∧
  (∀ (s : State) (pa : PhysAddr) (idx : BitVec 3) (b0 b1 b2 b3 b4 b5 b6 b7 : Byte),
    s.plainStructures → patValueLegal s.cpu.pat = true →
    s.holdsAt pa b0 → s.holdsAt (pa + 1#36) b1 → s.holdsAt (pa + 2#36) b2 → s.holdsAt (pa + 3#36) b3 →
    s.holdsAt (pa + 4#36) b4 → s.holdsAt (pa + 5#36) b5 → s.holdsAt (pa + 6#36) b6 → s.holdsAt (pa + 7#36) b7 →
    readEntry8 pa idx s = .ok (b7 ++ b6 ++ b5 ++ b4 ++ b3 ++ b2 ++ b1 ++ b0) s) ∧
  (∀ (s t : State) (pa : PhysAddr) (idx : BitVec 3) (ty : EffType) (b0 b1 b2 b3 : Byte),
    structType pa idx s = .ok ty t → undefinedStruct t pa 4 ty = false →
    s.holdsAt pa b0 → s.holdsAt (pa + 1#36) b1 → s.holdsAt (pa + 2#36) b2 → s.holdsAt (pa + 3#36) b3 →
    ∃ u, readEntry4 pa idx s = .ok ((b3 ++ b2 ++ b1 ++ b0).setWidth 64) u ∧ u.mem = s.mem) ∧
  ∀ (s t : State) (pa : PhysAddr) (idx : BitVec 3) (ty : EffType) (b0 b1 b2 b3 b4 b5 b6 b7 : Byte),
    structType pa idx s = .ok ty t → undefinedStruct t pa 8 ty = false →
    s.holdsAt pa b0 → s.holdsAt (pa + 1#36) b1 → s.holdsAt (pa + 2#36) b2 → s.holdsAt (pa + 3#36) b3 →
    s.holdsAt (pa + 4#36) b4 → s.holdsAt (pa + 5#36) b5 → s.holdsAt (pa + 6#36) b6 → s.holdsAt (pa + 7#36) b7 →
    ∃ u, readEntry8 pa idx s = .ok (b7 ++ b6 ++ b5 ++ b4 ++ b3 ++ b2 ++ b1 ++ b0) u ∧ u.mem = s.mem

/-- R51 (the walk is from general knowledge, log 39): through a permitted directory entry that maps no large
page and a permitted page-table entry, an address translates to a 4 KB page below 4 GB, with PAT_i at bit 7
of the page-table entry. -/
def Obligations.SmallPageTranslates : Prop :=
  ∀ (s t u w : State) (access : Access) (la : LinAddr) (v x : QWord) (p : PatType),
    s.cpu.pg = true → s.cpu.pae = false → (s.cpu.pse && v.getLsbD 7) = false →
    (∀ e ∈ s.cpu.tlb, e.covers la = false) →
    readEntry4 (pdeAddress s.cpu.cr3 la) (cr3Index s.cpu) s = .ok v t →
    v.getLsbD 0 = true → permitted s .pde v la access = true →
    readEntry4 (pteAddress (v.setWidth 32) la) (structIndex v) t = .ok x u →
    x.getLsbD 0 = true → permitted s .pte x la access = true →
    accessedDirtyUpdates
      [{ level := .pde, value := v, addr := pdeAddress s.cpu.cr3 la, idx := cr3Index s.cpu },
       { level := .pte, value := x, addr := pteAddress (v.setWidth 32) la, idx := structIndex v }]
      access true u = .ok () w →
    patType? s.cpu.pat (patIndex (x.getLsbD 7) (x.getLsbD 4) (x.getLsbD 3)) = some p →
    ∃ pa : PhysAddr, pa.toNat = (x.toNat / 2 ^ 12 % 2 ^ 20) * 2 ^ 12 + la.toNat % 2 ^ 12 ∧
      translate access la s = .ok
        { pa := pa
          page := some { size := .k4, idx := patIndex (x.getLsbD 7) (x.getLsbD 4) (x.getLsbD 3), pat := p } } w

/-- R42, R49, R95 (PermCheck is open, log 37): a present entry without a broken reserved bit that does not
permit the access raises a page fault with error-code bit 0 set and bit 3 clear, after the update of the entries
above it (R99): a directory entry, a page-table entry, and under PAE (log 22) a pointer-table entry, a directory entry
and a page-table entry. The linear address in CR2 is R93's (log 12). -/
def Obligations.DeniedPdeFaults : Prop :=
  (∀ (s t : State) (access : Access) (la : LinAddr) (v : QWord),
    s.cpu.pg = true → s.cpu.pae = false → (∀ e ∈ s.cpu.tlb, e.covers la = false) →
    readEntry4 (pdeAddress s.cpu.cr3 la) (cr3Index s.cpu) s = .ok v t → v.getLsbD 0 = true →
    (s.cpu.pse = true → v.getLsbD 7 = true → v.extractLsb' 17 5 = 0#5) →
    permitted s .pde v la access = false →
    ∃ ec : Word, ec.getLsbD 3 = false ∧ ec.getLsbD 0 = true ∧
      translate access la s =
        .fault (.exception (.pageFault ec la) { t with cpu := { t.cpu with cr2 := la } })) ∧
  (∀ (s t u w : State) (access : Access) (la : LinAddr) (v x : QWord),
    s.cpu.pg = true → s.cpu.pae = false → (s.cpu.pse && v.getLsbD 7) = false →
    (∀ e ∈ s.cpu.tlb, e.covers la = false) →
    readEntry4 (pdeAddress s.cpu.cr3 la) (cr3Index s.cpu) s = .ok v t →
    v.getLsbD 0 = true → permitted s .pde v la access = true →
    readEntry4 (pteAddress (v.setWidth 32) la) (structIndex v) t = .ok x u →
    x.getLsbD 0 = true → permitted s .pte x la access = false →
    accessedDirtyUpdates
      [{ level := .pde, value := v, addr := pdeAddress s.cpu.cr3 la, idx := cr3Index s.cpu }] access false u =
        .ok () w →
    ∃ ec : Word, ec.getLsbD 3 = false ∧ ec.getLsbD 0 = true ∧
      translate access la s =
        .fault (.exception (.pageFault ec la) { w with cpu := { w.cpu with cr2 := la } })) ∧
  (∀ (s t : State) (access : Access) (la : LinAddr) (d : QWord),
    s.cpu.pg = true → s.cpu.pae = true → (∀ e ∈ s.cpu.tlb, e.covers la = false) →
    readEntry8 (paeAddress s (.pdpteAt s.cpu.cr3 la)) (cr3Index s.cpu) s = .ok d t → d.getLsbD 0 = true →
    paeReserved s .pdpte d = false → permitted s .pdpte d la access = false →
    ∃ ec : Word, ec.getLsbD 3 = false ∧ ec.getLsbD 0 = true ∧
      translate access la s =
        .fault (.exception (.pageFault ec la) { t with cpu := { t.cpu with cr2 := la } })) ∧
  (∀ (s t u w : State) (access : Access) (la : LinAddr) (d v : QWord),
    s.throughPdpte access la d t →
    readEntry8 (paeAddress s (.pdeAt d la)) (structIndex d) t = .ok v u → v.getLsbD 0 = true →
    (v.getLsbD 7 = true → v.extractLsb' 13 8 = 0#8) → paeReserved s .pde v = false →
    permitted s .pde v la access = false →
    accessedDirtyUpdates [s.pdpteRef la d] access false u = .ok () w →
    ∃ ec : Word, ec.getLsbD 3 = false ∧ ec.getLsbD 0 = true ∧
      translate access la s =
        .fault (.exception (.pageFault ec la) { w with cpu := { w.cpu with cr2 := la } })) ∧
  ∀ (s t u w x : State) (access : Access) (la : LinAddr) (d v e : QWord),
    s.throughPdpte access la d t → s.throughPde access la d v t u →
    readEntry8 (paeAddress s (.pteAt v la)) (structIndex v) u = .ok e w → e.getLsbD 0 = true →
    paeReserved s .pte e = false → permitted s .pte e la access = false →
    accessedDirtyUpdates [s.pdpteRef la d, s.pdeRef la d v] access false w = .ok () x →
    ∃ ec : Word, ec.getLsbD 3 = false ∧ ec.getLsbD 0 = true ∧
      translate access la s =
        .fault (.exception (.pageFault ec la) { x with cpu := { x.cpu with cr2 := la } })

/-- R52, R57, R58 (the addresses of the PAE walk and the top four bits of the page's are open, log 22): under PAE,
through a present and permitted pointer-table entry, a present and permitted directory entry with PS = 1 and no
broken reserved bit translates to a 2 MB page: entry bits 31:21 and 21 offset bits, with the type that bits 12, 4
and 3 select. Bit 12 plays no part in the tests and the address (R48). -/
def Obligations.PaeLargePageTranslates : Prop :=
  ∀ (s t u w : State) (access : Access) (la : LinAddr) (d v : QWord) (p : PatType),
    s.cpu.pg = true → s.cpu.pae = true → (∀ e ∈ s.cpu.tlb, e.covers la = false) →
    readEntry8 (paeAddress s (.pdpteAt s.cpu.cr3 la)) (cr3Index s.cpu) s = .ok d t →
    d.getLsbD 0 = true → paeReserved s .pdpte d = false → permitted s .pdpte d la access = true →
    readEntry8 (paeAddress s (.pdeAt d la)) (structIndex d) t = .ok v u → v.getLsbD 0 = true →
    v.getLsbD 7 = true → v.extractLsb' 13 8 = 0#8 →
    paeReserved s .pde (v &&& ~~~0x1000#64) = false → permitted s .pde (v &&& ~~~0x1000#64) la access = true →
    accessedDirtyUpdates
      [{ level := .pdpte, value := d, addr := paeAddress s (.pdpteAt s.cpu.cr3 la), idx := cr3Index s.cpu },
       { level := .pde, value := v, addr := paeAddress s (.pdeAt d la), idx := structIndex d }]
      access true u = .ok () w →
    patType? s.cpu.pat (patIndex (v.getLsbD 12) (v.getLsbD 4) (v.getLsbD 3)) = some p →
    translate access la s = .ok
      { pa := (paeAddress s (.page2M (v &&& ~~~0x1000#64))).extractLsb' 32 4 ++ v.extractLsb' 21 11 ++
          la.extractLsb' 0 21
        page := some { size := .m2, idx := patIndex (v.getLsbD 12) (v.getLsbD 4) (v.getLsbD 3), pat := p } } w

/-- R37, R52, R57, R58 (the addresses of the PAE walk are open, log 22): under PAE, through present and permitted
pointer-table and directory entries, the latter with PS = 0, a present and permitted page-table entry translates to
a 4 KB page with the type that its bits 7, 4 and 3 select. Bit 7 plays no part in the tests and the address
(R48). -/
def Obligations.PaeSmallPageTranslates : Prop :=
  ∀ (s t u w y : State) (access : Access) (la : LinAddr) (d v x : QWord) (p : PatType),
    s.cpu.pg = true → s.cpu.pae = true → (∀ e ∈ s.cpu.tlb, e.covers la = false) →
    readEntry8 (paeAddress s (.pdpteAt s.cpu.cr3 la)) (cr3Index s.cpu) s = .ok d t →
    d.getLsbD 0 = true → paeReserved s .pdpte d = false → permitted s .pdpte d la access = true →
    readEntry8 (paeAddress s (.pdeAt d la)) (structIndex d) t = .ok v u → v.getLsbD 0 = true →
    v.getLsbD 7 = false → paeReserved s .pde v = false → permitted s .pde v la access = true →
    readEntry8 (paeAddress s (.pteAt v la)) (structIndex v) u = .ok x w → x.getLsbD 0 = true →
    paeReserved s .pte (x &&& ~~~0x80#64) = false → permitted s .pte (x &&& ~~~0x80#64) la access = true →
    accessedDirtyUpdates
      [{ level := .pdpte, value := d, addr := paeAddress s (.pdpteAt s.cpu.cr3 la), idx := cr3Index s.cpu },
       { level := .pde, value := v, addr := paeAddress s (.pdeAt d la), idx := structIndex d },
       { level := .pte, value := x, addr := paeAddress s (.pteAt v la), idx := structIndex v }]
      access true w = .ok () y →
    patType? s.cpu.pat (patIndex (x.getLsbD 7) (x.getLsbD 4) (x.getLsbD 3)) = some p →
    translate access la s = .ok
      { pa := (paeAddress s (.page4K (x &&& ~~~0x80#64))).extractLsb' 12 24 ++ la.extractLsb' 0 12
        page := some { size := .k4, idx := patIndex (x.getLsbD 7) (x.getLsbD 4) (x.getLsbD 3), pat := p } } y

/-- R37: a translation without PAE gives the page size and stays within the physical address size that
Table 3-1 has for the flags and the entry's PS bit. -/
def Obligations.WalkFollowsPagingModeTable : Prop :=
  ∀ (s t u : State) (access : Access) (la : LinAddr) (v : QWord) (tr : Translation),
    s.cpu.pg = true → s.cpu.pae = false → (∀ e ∈ s.cpu.tlb, e.covers la = false) →
    readEntry4 (pdeAddress s.cpu.cr3 la) (cr3Index s.cpu) s = .ok v t → translate access la s = .ok tr u →
    tr.page.map (·.size) = (pagingMode true false s.cpu.pse (v.getLsbD 7)).pageSize? ∧
      ∀ n, (pagingMode true false s.cpu.pse (v.getLsbD 7)).physBits? = some n → tr.pa.toNat < 2 ^ n

/-- R77, R117: after FlushTLB no translation made before is used: every translation is a walk. R112: after both
flushes, in either order, no older value of the PAT is in use. -/
def Obligations.FlushTlbForcesWalk : Prop :=
  (∀ (s t : State) (access : Access) (la : LinAddr), s.cpu.pg = true →
    applyEvent .flushTlb s = .ok () t → t.mem = s.mem ∧ translate access la t = walk access la t) ∧
  ∀ (s t u : State) (e f : Event), (e, f) = (.flushTlb, .flushCaches) ∨ (e, f) = (.flushCaches, .flushTlb) →
    applyEvent e s = .ok () t → applyEvent f t = .ok () u →
    u.cpu.olderPats = [] ∧ u.cpu.tlb = [] ∧ u.cpu.cache = [] ∧ u.cpu.pat = s.cpu.pat

/-- R29, R49, R89, R112: through a cached translation the address is the cached page's, and the type is the one cached
or the one the PAT gives now (log 20). -/
def Obligations.CachedTranslationHasOldOrNewType : Prop :=
  ∀ (s : State) (e : TlbEntry) (la : LinAddr), patValueLegal s.cpu.pat = true →
    ∃ tr v t, useTlbEntry e la s = .ok tr t ∧ tr.page = some v ∧ tr.pa = inPage e.size e.base la ∧
      v.size = e.size ∧ v.idx = e.idx ∧ (v.pat = e.pat ∨ patType? s.cpu.pat e.idx = some v.pat) ∧
      t.mem = s.mem ∧ t.cpu = s.cpu

/-- R29, R60, R89, R112: a translation that enters the TLB is the one the tables produce: at the address and for the
access it was made for it gives the walk's physical address, index and type, and the type is the one the PAT holds
for the index, not that of an older value (log 38). -/
def Obligations.TlbFillCachesTheWalk : Prop :=
  ∀ (s t : State) (access : Access) (la : LinAddr) (tr : Translation), s.cpu.pg = true →
    walk access la s = .ok tr t →
    ∃ e v, (s.tlbFill access la).cpu.tlb = e :: s.cpu.tlb ∧ e.covers la = true ∧ tr.page = some v ∧
      inPage e.size e.base la = tr.pa ∧ e.size = v.size ∧ e.idx = v.idx ∧ e.pat = v.pat ∧
      patType? s.cpu.pat e.idx = some e.pat

/-- R55: with paging enabled, in every paging mode and with no bit that turns it off, a translation has the type that
its index selects in the PAT, or, if it is a cached one, the type it was cached with (R29, R60, D16, log 20); and the
translation's type, in place of PCD and PWT, is what Table 9-2 combines with the MTRRs'. While no older value of the
PAT is live, that is the type of the access made through it (a live one may give the access another type, R112,
log 20). -/
def Obligations.PagedAccessLooksUpPat : Prop :=
  ∀ (s t : State) (access : Access) (la : LinAddr) (tr : Translation), s.cpu.pg = true →
    translate access la s = .ok tr t →
    ∃ v, tr.page = some v ∧
      (patType? s.cpu.pat v.idx = some v.pat ∨
        ∃ e ∈ s.cpu.tlb, e.covers la = true ∧ v.idx = e.idx ∧ v.pat = e.pat) ∧
      (s.cpu.mtrrEnabled = true → s.cpu.cd = false → s.cpu.nw = false →
        (∀ pa, effectiveType pa (tr.page.map (·.pat)) t = .ok (table92 v.pat (mtrrTypeAt s.cpu pa)) t) ∧
        ((∀ o ∈ s.cpu.olderPats, o.live = false) → ∀ (n : Nat) (p : Part) (ps : List Part) (u : State),
          accessParts access n la n s = .ok (p :: ps) u →
          p.la = la ∧ p.pa = tr.pa ∧ p.type = table92 v.pat (mtrrTypeAt s.cpu tr.pa)))

/-! Physical memory and caches -/

/-- R74, D27: a processor sees its own write: a byte written under a cacheable type or UC_PAGE is the byte read next
under one of these types, where no other processor holds a byte that memory has not received; one written under a type
that may ignore the caches is the byte read next under any type, where no cache holds a copy (log 23, log 26). A write
of a cacheable type leaves the other processors' caches as they are, or leaves in them no byte but its own, which
memory has received: no later read takes an older byte of the writer's own from them. R68: a UC_PAGE write reaches
memory and the copy in the caches of any processor, and changes no copy of another byte; a UC_PAGE read gives the byte
that a cache of any processor holds and memory has not received, and without one memory's byte or that of the
processor's own copy, if it has one; a byte of its own that memory has not received is what a processor reads under a
cacheable type. -/
def Obligations.OwnWriteIsSeen : Prop :=
  (∀ (s u : State) (pa : PhysAddr) (ty ty' : EffType) (v : Byte),
    ty ∈ [.wt, .wp, .wb, .ucPage] → ty' ∈ [.wt, .wp, .wb, .ucPage] →
    (∀ c ∈ s.others, ∀ l, c.cached? pa = some l → l.dirty = false) →
    writeByte pa ty v s = .ok () u → ∃ w, readByte pa ty' u = .ok v w) ∧
  (∀ (s u : State) (pa : PhysAddr) (ty ty' : EffType) (v : Byte), ty ∈ [.wc, .ucMtrr, .uc] →
    (∀ c ∈ s.cpu :: s.others, c.cached? pa = none) →
    writeByte pa ty v s = .ok () u → ∃ w, readByte pa ty' u = .ok v w) ∧
  (∀ (s : State) (pa : PhysAddr) (v : Byte), s.platform.backing? pa.toNat = some .memory →
    ∃ u, writeByte pa .ucPage v s = .ok () u ∧ readByte pa .ucPage u = .ok v u ∧
      u.mem.read pa.toNat = some v ∧ (∀ a, a ≠ pa.toNat → u.mem.read a = s.mem.read a) ∧
      (u.cpu :: u.others).map Cpu.withoutBytes = (s.cpu :: s.others).map Cpu.withoutBytes ∧
      (∀ b, b ≠ pa → (u.cpu :: u.others).map (·.cached? b) = (s.cpu :: s.others).map (·.cached? b)) ∧
      ∀ c ∈ u.cpu :: u.others, ∀ l, c.cached? pa = some l → l.byte = v ∧ l.dirty = false) ∧
  (∀ (s u : State) (pa : PhysAddr) (ty : EffType) (v : Byte), ty ∈ [.wt, .wp, .wb] →
    writeByte pa ty v s = .ok () u →
    u.others = s.others ∨ u.mem.read pa.toNat = some v ∧
      ∀ c ∈ u.others, ∀ l, c.cached? pa = some l → l.byte = v ∧ l.dirty = false) ∧
  (∀ (s : State) (pa : PhysAddr) (c : Cpu) (l : CacheLine), s.platform.backing? pa.toNat = some .memory →
    c ∈ s.cpu :: s.others → c.cached? pa = some l → l.dirty = true →
    (∀ d ∈ s.cpu :: s.others, ∀ k, d.cached? pa = some k → k.byte = l.byte ∨ k.dirty = false) →
    readByte pa .ucPage s = .ok l.byte s) ∧
  (∀ (s : State) (pa : PhysAddr) (b : Byte), s.platform.backing? pa.toNat = some .memory →
    (∀ d ∈ s.cpu :: s.others, ∀ k, d.cached? pa = some k → k.dirty = false) → s.mem.read pa.toNat = some b →
    ∃ x u, readByte pa .ucPage s = .ok x u ∧ (x = b ∨ ∃ l, s.cpu.cached? pa = some l ∧ x = l.byte) ∧
      u.mem = s.mem ∧ u.cpu = s.cpu ∧ u.others = s.others) ∧
  ∀ (s : State) (pa : PhysAddr) (ty : EffType) (l : CacheLine), s.platform.backing? pa.toNat = some .memory →
    ty = .wt ∨ ty = .wp ∨ ty = .wb → s.cpu.cached? pa = some l → l.dirty = true →
    (∀ c ∈ s.others, ∀ k, c.cached? pa = some k → k.dirty = false) → readByte pa ty s = .ok l.byte s

/-- R9, R34: a write of `n` bytes at a physical address leaves every byte of memory outside those addresses, and a
read leaves all of memory, under every type. That the addresses go on at 0 after the last one is the model's DESIGN
CHOICE (log 41). -/
def Obligations.PhysAccessFrame : Prop :=
  (∀ (s u : State) (pa : PhysAddr) (ty : EffType) (bs : List Byte), physWrite pa ty bs s = .ok () u →
    ∀ a, (∀ i < bs.length, a ≠ (pa + BitVec.ofNat 36 i).toNat) → u.mem.read a = s.mem.read a) ∧
  ∀ (s u : State) (pa : PhysAddr) (n : Nat) (ty : EffType) (bs : List Byte), physRead pa n ty s = .ok bs u →
    u.mem = s.mem

/-- R30, R77 with D16: FlushCaches leaves no cached byte; memory receives every byte it had not received, and no other
byte of it changes (one copy of a byte: part of the invariant). R115, step 4: a page that is remapped by now is noted
as used by this processor no longer, and is waited for only if another may have used it (log 25). A copy that is dropped reaches memory if memory had not received it, and no other byte
of memory or of the caches changes (log 38); a dropped translation changes neither. -/
def Obligations.FlushesAndDropsWriteBack : Prop :=
  (∀ s : State, s.cpu.sound = true →
    ∃ t, applyEvent .flushCaches s = .ok () t ∧ t.cpu.cache = [] ∧
      (∀ l ∈ s.cpu.cache, l.dirty = true → t.mem.read l.addr.toNat = some l.byte) ∧
      (∀ a, (∀ l ∈ s.cpu.cache, l.dirty = true → l.addr.toNat ≠ a) → t.mem.read a = s.mem.read a) ∧
      t.cpu.tlb = s.cpu.tlb ∧ t.others = s.others ∧
      (∀ f, f ∈ t.cpu.cacheable ↔ f ∈ s.cpu.cacheable ∧ ∀ m ∈ s.remaps,
        ¬(m.idx ≠ f.idx ∧ (m.reaches f.base = true ∨ f.reaches m.base = true))) ∧
      ∀ m, m ∈ t.remaps ↔ m ∈ s.remaps ∧ ∃ c ∈ s.others, ∃ f ∈ c.cacheable,
        m.idx ≠ f.idx ∧ (m.reaches f.base = true ∨ f.reaches m.base = true)) ∧
  (∀ (s : State) (pa : PhysAddr), ∃ t, applyEvent (.cacheDrop pa) s = .ok () t ∧ t.cpu.cached? pa = none ∧
    (∀ b, b ≠ pa → t.cpu.cached? b = s.cpu.cached? b) ∧
    (∀ l, s.cpu.cached? pa = some l → l.dirty = true → t.mem.read pa.toNat = some l.byte) ∧
    ((∀ l, s.cpu.cached? pa = some l → l.dirty = false) → t.mem = s.mem) ∧
    (∀ a, a ≠ pa.toNat → t.mem.read a = s.mem.read a) ∧
    t.cpu.sameRegisters s.cpu ∧ t.cpu.tlb = s.cpu.tlb ∧ t.others = s.others ∧ t.stored = s.stored) ∧
  ∀ (s : State) (k : Nat), ∃ t, applyEvent (.tlbDrop k) s = .ok () t ∧ t.cpu.tlb = s.cpu.tlb.eraseIdx k ∧
    t.mem = s.mem ∧ t.cpu.cache = s.cpu.cache ∧ t.cpu.sameRegisters s.cpu ∧ t.others = s.others ∧ t.stored = s.stored

/-- R62: a speculative read leaves a copy only under a type that is cacheable for reads, and drops no copy. That
the copy is of memory's own byte and needs no write-back is the model's choice (log 23, log 38). -/
def Obligations.CacheFillRespectsType : Prop :=
  ∀ (s : State) (pa : PhysAddr) (ty : EffType),
    (∀ l ∈ (s.fillByte pa ty).cpu.cache, l ∈ s.cpu.cache ∨
      (ty = .wt ∨ ty = .wp ∨ ty = .wb) ∧ l.addr = pa ∧ l.type = ty ∧ l.dirty = false ∧
        s.mem.read pa.toNat = some l.byte) ∧
    ∀ l ∈ s.cpu.cache, l ∈ (s.fillByte pa ty).cpu.cache

/-- R73: an access to a physical address that nothing backs has no meaning. -/
def Obligations.UnbackedAccessStops : Prop :=
  ∀ (s : State) (pa : PhysAddr) (ty : EffType) (v : Byte), s.platform.backing? pa.toNat = none →
    readByte pa ty s = .fault (.unbacked pa) ∧ writeByte pa ty v s = .fault (.unbacked pa)

/-- R114, R115 (log 24, log 25): a load within one page gives free bytes, wherever the bytes themselves could be read,
if at one of its bytes two live mappings reach the physical page, not one mapping in the tables and the TLB of one
processor, and give it different effective types; or if a live mapping of the page, whatever type the access has, or
the access itself, gives it the type WC while some cache holds a byte of the page; or if the byte is in a page that is
noted as remapped from a cacheable type to WC, and some processor that may have used it as cacheable has not flushed
its caches since, whatever the caches hold. A store within one page whose result is undefined completes where memory
backs its bytes: it notes its addresses, leaves a free value at each, and leaves every other byte of memory. (That no
other processor differs in memory types is the premise of R104, log 35.) -/
def Obligations.AliasedAccessIsFree : Prop :=
  (∀ (s r t u : State) (la : LinAddr) (n x : Nat) (tr : Translation) (page : Option PageView) (ty : EffType)
    (a : PhysAddr) (bs : List Byte),
    bytesInPage tr la n = n → translate .read la s = .ok tr r → accessPage tr.page r = .ok page t →
    effectiveType tr.pa (page.map (·.pat)) t = .ok ty t → physRead tr.pa n ty t = .ok bs u →
    t.sameMemoryTypes → x < n → a = tr.pa + BitVec.ofNat 36 x →
    ((∃ (i j : Nat) (c d : Cpu) (m k : Mapping) (p q : PatType),
        (t.cpu :: t.others)[i]? = some c ∧ (t.cpu :: t.others)[j]? = some d ∧
        m ∈ liveMappings t c ∧ k ∈ liveMappings t d ∧ m.reaches a = true ∧ k.reaches a = true ∧
        m.pat = some p ∧ k.pat = some q ∧
        effectiveType? c a (some p) ≠ effectiveType? d a (some q) ∧ (i ≠ j ∨ m.same k = false)) ∨
      (∃ c ∈ t.cpu :: t.others, ∃ m ∈ liveMappings t c, ∃ p, m.reaches a = true ∧ m.pat = some p ∧
        effectiveType? c a (some p) = some .wc ∧ ∃ d ∈ t.cpu :: t.others, ∃ l ∈ d.cache,
          l.addr.toNat / 2 ^ pageBits m.size = a.toNat / 2 ^ pageBits m.size) ∨
      (∃ m ∈ t.remaps, ∃ c ∈ t.cpu :: t.others, ∃ f ∈ c.cacheable, m.reaches a = true ∧ m.idx ≠ f.idx ∧
        (m.reaches f.base = true ∨ f.reaches m.base = true) ∧ table92 m.pat (mtrrTypeAt t.cpu a) = .wc ∧
        (table92 f.pat (mtrrTypeAt c (if f.reaches a then a else f.base))).properties.cacheableReads = true) ∨
      ty = .wc ∧ ∃ v, page = some v ∧ ∃ c ∈ t.cpu :: t.others, ∃ l ∈ c.cache,
        l.addr.toNat / 2 ^ pageBits v.size = a.toNat / 2 ^ pageBits v.size) →
    accessParts .read n la n s = .ok [{ la := la, pa := tr.pa, type := ty, size := n, undef := true }] t ∧
      ∃ w, memRead la n s = .ok ((List.range n).map fun i => Config.freeByte (u.freeCount + i)) w ∧
        w.mem = u.mem ∧ w.cpu = u.cpu ∧ w.freeCount = u.freeCount + n) ∧
  ∀ (s t : State) (la : LinAddr) (bs : List Byte) (tr : Translation) (page : Option PageView) (ty : EffType),
    bs ≠ [] → bytesInPage tr la bs.length = bs.length → s.opens .write la tr page ty t →
    undefinedAccess t la tr.pa bs.length page ty = true → t.sameMemoryTypes →
    (∀ i < bs.length, t.platform.backing? (tr.pa + BitVec.ofNat 36 i).toNat = some .memory) →
    ∃ w, memWrite la bs s = .ok () w ∧
      w.stored = ((List.range bs.length).map fun i => (tr.pa + BitVec.ofNat 36 i).toNat) ++ t.stored ∧
      (∀ i < bs.length, ∃ k, w.mem.read (tr.pa + BitVec.ofNat 36 i).toNat = some (Config.freeByte k)) ∧
      ∀ a, (∀ i < bs.length, a ≠ (tr.pa + BitVec.ofNat 36 i).toNat) → w.mem.read a = t.mem.read a

/-- R115, R119 (log 25): the steps between which accesses are undefined. Each step begins by noting, on every
processor whose accesses have types, the live mappings with a cacheable PAT type, through which it may use the page,
if only speculatively; and the mappings as WC, in a TLB or in tables with paging enabled or not, of a page noted so
under another PAT index. It notes them and changes nothing else; and what is noted is kept by every step but the event
FlushCaches, whatever becomes of the tables, the TLBs, the cached bytes and the paging flags. -/
def Obligations.RemapIsNotedUntilFlush : Prop :=
  (∀ (s : State) (i : Nat) (c : Cpu), (s.cpu :: s.others)[i]? = some c →
    ∃ fs, (s.nextTurn.cpu :: s.nextTurn.others)[i]? = some { c with cacheable := fs } ∧
      (∀ f ∈ c.cacheable, f ∈ fs) ∧
      ∀ (m : Mapping) (p : PatType), c.mtrrEnabled = true → c.cd = false → m ∈ liveMappings s c →
        m.pat = some p → p = .wt ∨ p = .wp ∨ p = .wb →
        { size := m.size, base := m.base, idx := m.idx, pat := p } ∈ fs) ∧
  (∀ s : State, s.nextTurn.mem = s.mem ∧ s.nextTurn.platform = s.platform ∧ s.nextTurn.stored = s.stored ∧
    s.nextTurn.readData = s.readData ∧ s.nextTurn.freeCount = s.freeCount ∧
    s.nextTurn.others.length = s.others.length ∧ ∀ m ∈ s.remaps, m ∈ s.nextTurn.remaps) ∧
  (∀ (s : State) (c d : Cpu) (m : Mapping) (f w : MappedFrame), c ∈ s.cpu :: s.others → c.mtrrEnabled = true →
    c.cd = false → m ∈ tlbMappings c ++ tableEntries s c → m.pat = some .wc →
    w = { size := m.size, base := m.base, idx := m.idx, pat := .wc } → d ∈ s.cpu :: s.others → f ∈ d.cacheable →
    w.idx ≠ f.idx → w.reaches f.base = true ∨ f.reaches w.base = true → w ∈ s.nextTurn.remaps) ∧
  ∀ s t : State, step s = .next t → (∀ rest, s.pending ≠ .event .flushCaches :: rest) →
    (∀ m ∈ s.remaps, m ∈ t.remaps) ∧
      ∀ c ∈ s.cpu :: s.others, ∃ d ∈ t.cpu :: t.others, d.id = c.id ∧ ∀ f ∈ c.cacheable, f ∈ d.cacheable

/-- R70, R34, R38: with paging and the MTRRs disabled, nothing cached, no remapped page noted (R115) and no other
processor that differs in memory types (log 35), a store to backed memory that does not pass the top of the address
space writes its bytes from the address up, and notes them as stored to; a load of as many bytes then gives them back
and changes nothing. -/
def Obligations.StoreThenLoadReturnsBytes : Prop :=
  ∀ (s : State) (la : LinAddr) (bs : List Byte), s.cpu.pg = false → s.cpu.mtrrEnabled = false →
    s.sameMemoryTypes → s.remaps = [] → (∀ c ∈ s.cpu :: s.others, c.cache = []) → bs ≠ [] →
    la.toNat + bs.length ≤ 2 ^ 32 →
    (∀ i < bs.length, s.platform.backing? (la.toNat + i) = some .memory) →
    let u : State := { s with
      mem := s.mem.writeBytes la.toNat bs
      stored := (List.range bs.length).map (la.toNat + ·) ++ s.stored }
    memWrite la bs s = .ok () u ∧ memRead la bs.length u = .ok bs u ∧
      ∀ a, (∀ i < bs.length, a ≠ la.toNat + i) → u.mem.read a = s.mem.read a

/-- R70, R78, R71: a load, a store and a fetch that lie within one page and are not undefined (R114, R115) read and
write the bytes from the translated physical address up, under the effective type of the translation, and nothing
else; a store notes its addresses (log 27), and a fetch is of two bytes that the program did not store to. An access
over the end of a page is two parts, each with its own translation and its own effective type, in order. (That no
other processor differs in memory types is the premise of R104, log 35.) -/
def Obligations.AccessMovesTranslatedBytes : Prop :=
  (∀ (s t : State) (la : LinAddr) (n : Nat) (tr : Translation) (page : Option PageView) (ty : EffType),
    0 < n → bytesInPage tr la n = n → s.opens .read la tr page ty t →
    undefinedAccess t la tr.pa n page ty = false → t.sameMemoryTypes →
    memRead la n s = physRead tr.pa n ty t) ∧
  (∀ (s t u : State) (la : LinAddr) (bs : List Byte) (tr : Translation) (page : Option PageView) (ty : EffType),
    bs ≠ [] → bytesInPage tr la bs.length = bs.length → s.opens .write la tr page ty t →
    undefinedAccess t la tr.pa bs.length page ty = false → t.sameMemoryTypes →
    physWrite tr.pa ty bs t = .ok () u →
    memWrite la bs s = .ok () { u with
      stored := ((List.range bs.length).map fun i => (tr.pa + BitVec.ofNat 36 i).toNat) ++ u.stored }) ∧
  (∀ (s t : State) (tr : Translation) (page : Option PageView) (ty : EffType),
    s.cpu.pc ≠ 0xFFFFFFFF#32 → bytesInPage tr s.cpu.pc 2 = 2 → s.opens .fetch s.cpu.pc tr page ty t →
    undefinedAccess t s.cpu.pc tr.pa 2 page ty = false →
    tr.pa.toNat ∉ t.stored → (tr.pa + 1#36).toNat ∉ t.stored →
    fetchBytes s = physRead tr.pa 2 ty t) ∧
  (∀ (s t t' : State) (access : Access) (la : LinAddr) (n k : Nat) (tr tr' : Translation)
    (page page' : Option PageView) (ty ty' : EffType),
    k = bytesInPage tr la n → k < n → s.opens access la tr page ty t →
    t.opens access (la + BitVec.ofNat 32 k) tr' page' ty' t' →
    bytesInPage tr' (la + BitVec.ofNat 32 k) (n - k) = n - k →
    accessParts access n la n s = .ok
      [{ la := la, pa := tr.pa, type := ty, size := k, undef := undefinedAccess t la tr.pa k page ty },
       { la := la + BitVec.ofNat 32 k, pa := tr'.pa, type := ty', size := n - k,
         undef := undefinedAccess t' (la + BitVec.ofNat 32 k) tr'.pa (n - k) page' ty' }] t') ∧
  (∀ (s t u w : State) (la : LinAddr) (n : Nat) (p q : Part) (bs cs : List Byte),
    accessParts .read n la n s = .ok [p, q] t → p.undef = false → q.undef = false → t.sameMemoryTypes →
    physRead p.pa p.size p.type t = .ok bs u → physRead q.pa q.size q.type u = .ok cs w →
    memRead la n s = .ok (bs ++ cs) w) ∧
  ∀ (s t u w : State) (la : LinAddr) (p q : Part) (bs cs : List Byte),
    accessParts .write (bs ++ cs).length la (bs ++ cs).length s = .ok [p, q] t → p.undef = false →
    q.undef = false → p.size = bs.length → q.size = cs.length → t.sameMemoryTypes →
    physWrite p.pa p.type bs t = .ok () u → physWrite q.pa q.type cs (u.noteStored p.addresses) = .ok () w →
    memWrite la (bs ++ cs) s = .ok () (w.noteStored q.addresses)

/-- R114: the mapping of a present 4 MB entry of the tables, as memory and the bytes it has not received from the
caches have them, is among the live mappings: it reaches the translated address, for the page of the linear
address, with the type its index selects (log 24). -/
def Obligations.LargePageMappingIsLive : Prop :=
  ∀ (s : State) (la : LinAddr) (v : Word), s.cpu.pg = true → s.cpu.pae = false → s.cpu.pse = true →
    (s.tableView s.cpu).read4 (pdeAddress s.cpu.cr3 la).toNat = some v → v.getLsbD 0 = true →
    v.getLsbD 7 = true → v.extractLsb' 17 5 = 0#5 →
    ∃ mp ∈ liveMappings s s.cpu, mp.reaches (address4M v la) = true ∧ mp.page = pageStart .m4 la ∧
      mp.size = .m4 ∧ mp.idx = patIndex (v.getLsbD 12) (v.getLsbD 4) (v.getLsbD 3) ∧
      mp.pat = patType? s.cpu.pat (patIndex (v.getLsbD 12) (v.getLsbD 4) (v.getLsbD 3))

/-- R104, R110, R113 with U7 (log 35): a load or store is refused by name exactly where, at one of its own physical
addresses, another processor has another PAT, an older PAT value not flushed out, or other MTRRs; so for no such
reason where every processor has the same at every address: the launch premise `State.sameMemoryTypes`, spelled
out. -/
def Obligations.DifferingTypesRefuseDataAccess : Prop :=
  (∀ (s : State) (la : LinAddr) (n : Nat),
    (∃ pa, memRead la n s = .refused (.memoryTypesDiffer pa)) ↔
      ∃ ps t, accessParts .read n la n s = .ok ps t ∧
        ∃ part ∈ ps, ∃ pa ∈ part.physAddrs, ∃ c ∈ t.others, t.cpu.typesDifferAt c pa = true) ∧
  (∀ (s : State) (la : LinAddr) (bs : List Byte),
    (∃ pa, memWrite la bs s = .refused (.memoryTypesDiffer pa)) ↔
      ∃ ps t, accessParts .write bs.length la bs.length s = .ok ps t ∧
        ∃ part ∈ ps, ∃ pa ∈ part.physAddrs, ∃ c ∈ t.others, t.cpu.typesDifferAt c pa = true) ∧
  (∀ (s : State) (la : LinAddr) (n : Nat) (bs : List Byte) (pa : PhysAddr), s.sameMemoryTypes →
    memRead la n s ≠ .refused (.memoryTypesDiffer pa) ∧ memWrite la bs s ≠ .refused (.memoryTypesDiffer pa)) ∧
  (∀ (c d : Cpu) (pa : PhysAddr), c.typesDifferAt d pa = true ↔
    c.pat ≠ d.pat ∨ c.olderPats ≠ [] ∨ d.olderPats ≠ [] ∨ c.mtrrEnabled ≠ d.mtrrEnabled ∨
      mtrrTypeAt c pa ≠ mtrrTypeAt d pa) ∧
  ∀ s : State, s.sameMemoryTypes ↔
    ∀ c ∈ s.others, c.pat = s.cpu.pat ∧ c.olderPats = [] ∧ s.cpu.olderPats = [] ∧
      c.mtrrEnabled = s.cpu.mtrrEnabled ∧ ∀ pa, mtrrTypeAt c pa = mtrrTypeAt s.cpu pa

/-! Steps -/

/-- R84, R97: when an instruction is due (log 1) and the bytes at `pc` decode to a well-formed instruction, the step
is that instruction's execution in the state the fetch leaves: same registers and TLB, and the other processors as
they were, with what a step notes of them at its beginning (RemapIsNotedUntilFlush, log 25), but for the values and
marks of their cached bytes (R68). -/
def Obligations.StepRunsDecodedInstruction : Prop :=
  ∀ (s t : State) (bs rest : List Byte) (i : Instr), s.instructionDue = true →
    fetchBytes s.nextTurn = .ok bs t → decode bs = .ok (i, rest) → i.wf = true →
    step s = exec i t ∧ t.cpu.sameRegisters s.cpu ∧ t.cpu.tlb = s.cpu.tlb ∧
    t.others.map Cpu.withoutBytes = s.nextTurn.others.map Cpu.withoutBytes ∧
    t.pending = s.pending.tail ∧ t.stored = s.stored ∧ t.platform = s.platform ∧ t.readData = s.readData

/-- R12, R38, R78, R84: with paging disabled, the two bytes in backed memory at `pc` and `pc + 1`, uncached, not
stored to by the program and not in a page where an access is undefined (R114, R115), are the instruction that the
step executes, in the state as it was but for what the reads may leave in the caches (R62); nothing is left there
where every access is UC. An instruction that begins at the last linear address is refused (D17; log 10). -/
def Obligations.StepWithPagingDisabled : Prop :=
  (∀ (s : State) (b0 b1 : Byte) (i : Instr), s.instructionDue = true → s.cpu.pg = false →
    s.cpu.pc ≠ 0xFFFFFFFF#32 → (s.cpu.mtrrEnabled = false ∨ s.cpu.cd = true ∨ s.cpu.nw = false) →
    decode [b0, b1] = .ok (i, []) →
    (∀ a b, (a, b) = (s.cpu.pc, b0) ∨ (a, b) = (s.cpu.pc + 1#32, b1) →
      s.mem.read a.toNat = some b ∧ s.platform.backing? a.toNat = some .memory ∧ a.toNat ∉ s.stored ∧
        undefinedAt s.nextTurn none (a.setWidth 36) = false ∧
        ∀ c ∈ s.cpu :: s.others, c.cached? (a.setWidth 36) = none) →
    ∃ t, step s = exec i t ∧ t.cpu.sameRegisters s.cpu ∧ t.cpu.tlb = s.cpu.tlb ∧ t.mem = s.mem ∧
      t.pending = s.pending.tail ∧ (s.cpu.mtrrEnabled = false ∨ s.cpu.cd = true → t = s.nextTurn)) ∧
  ∀ s : State, s.instructionDue = true → s.cpu.pc = 0xFFFFFFFF#32 → step s = .refused .fetchWraps

/-- The load of a program (log 31): with paging disabled and memory behind the two addresses, the table's number of an
instruction placed by `withFetchWord` is the instruction the next step executes, with the registers as they were; in
the very state of the load, with what a step notes at its beginning (R115, log 25), where every access is UC. -/
def Obligations.PlacedInstructionRunsNext : Prop :=
  ∀ (s : State) (i : Instr) (w : Nat), (i, w) ∈ [(Instr.cpuid, 0x0FA2), (.rdmsr, 0x0F32), (.wrmsr, 0x0F30)] →
    s.cpu.pg = false → s.cpu.pc ≠ 0xFFFFFFFF#32 →
    (s.cpu.mtrrEnabled = false ∨ s.cpu.cd = true ∨ s.cpu.nw = false) →
    s.platform.backing? s.cpu.pc.toNat = some .memory →
    s.platform.backing? (s.cpu.pc + 1#32).toNat = some .memory →
    (∀ a ∈ [s.cpu.pc, s.cpu.pc + 1#32], undefinedAt (s.withFetchWord 16 w).nextTurn none (a.setWidth 36) = false) →
    ∃ t, step (s.withFetchWord 16 w) = exec i t ∧ t.cpu.sameRegisters s.cpu ∧
      (s.cpu.mtrrEnabled = false ∨ s.cpu.cd = true → t = (s.withFetchWord 16 w).nextTurn)

/-- R78: a fetch of a byte that the program stored to is refused by name (log 27). -/
def Obligations.SelfModifyingFetchRefused : Prop :=
  ∀ (s t : State) (ps : List Part), s.instructionDue = true → fetchParts s.nextTurn = .ok ps t →
    (∃ p ∈ ps, ∃ a ∈ p.addresses, a ∈ t.stored) →
    ∃ pa : PhysAddr, pa.toNat ∈ t.stored ∧ step s = .refused (.selfModifying pa)

/-- R24, R28, R30: every step that answers a next state keeps the invariant: on every processor the PAT and its
older values in use hold defined encodings only and the caches at most one copy of a byte, and memory keeps its
canonical form. -/
def Obligations.StepKeepsInvariant : Prop :=
  ∀ s t : State, s.inv = true → step s = .next t → t.inv = true

/-- R20, R22, R89, R102: the PAT of the running processor changes only by a fetched WRMSR at ring 0 with
`ECX = 277H`, and what it changes to is EDX:EAX, every field legal. (The event `run` changes which processor
runs.) -/
def Obligations.PatChangesOnlyByWrmsr : Prop :=
  ∀ s t : State, step s = .next t → (∀ k rest, s.pending ≠ .event (.run k) :: rest) →
    t.cpu.pat ≠ s.cpu.pat →
    s.instructionDue = true ∧ (∃ u, fetchInstr s.nextTurn = .ok .wrmsr u) ∧ s.cpu.cpl = 0#2 ∧
      s.cpu.ecx = 0x277#32 ∧ t.cpu.pat = s.cpu.edx ++ s.cpu.eax ∧ patValueLegal t.cpu.pat = true

/-- R13, R19, R25, R102, R104: no instruction changes the privilege level, a control register, MTRRDefType, the
MTRRs, the TLB or any other processor (but for the values and marks of its cached bytes, R68, and with what a
step notes at its beginning, log 25); `pc` advances by 2. -/
def Obligations.InstructionStepKeepsSystemState : Prop :=
  ∀ s t : State, s.instructionDue = true → step s = .next t →
    t.cpu.cpl = s.cpu.cpl ∧ t.cpu.cr0 = s.cpu.cr0 ∧ t.cpu.cr2 = s.cpu.cr2 ∧ t.cpu.cr3 = s.cpu.cr3 ∧
      t.cpu.cr4 = s.cpu.cr4 ∧ t.cpu.mtrrDefType = s.cpu.mtrrDefType ∧ t.cpu.mtrrs = s.cpu.mtrrs ∧
      t.cpu.tlb = s.cpu.tlb ∧ t.others.map Cpu.withoutBytes = s.nextTurn.others.map Cpu.withoutBytes ∧
      t.stored = s.stored ∧ t.pending = s.pending.tail ∧ t.cpu.pc = s.cpu.pc + 2#32

/-- R99: a step that ends in an exception leaves every register but CR2, the PAT, the TLB and every other
processor as they were (but for the values and marks of its cached bytes, R68, and with what a step notes at its
beginning, log 25); `pc` still points at the faulting
instruction. CR2 holds a page fault's address (R93, log 12) and is unchanged by general protection. An instruction
that was fetched and then raises an exception changes nothing at all after its fetch, and with paging disabled,
where no walk is made, memory is unchanged. R42: a walk, be it that it completes or ends in an exception, changes no
byte of memory but the lowest of the entries it reads; an update by AccessedDirtyUpdate changes only such bytes, and,
where every access is UC, in no bit but 5 and 6 (the update's effect is open, log 21; an undefined write frees the
byte, log 25); the reads of the entries change nothing of memory. -/
def Obligations.ExceptionLeavesRegisters : Prop :=
  (∀ (s after : State) (e : Exception), step s = .fault (.exception e after) →
    { after.cpu with cr2 := s.cpu.cr2 }.sameRegisters s.cpu ∧ after.cpu.tlb = s.cpu.tlb ∧
      after.others.map Cpu.withoutBytes = s.nextTurn.others.map Cpu.withoutBytes ∧ after.stored = s.stored ∧
      (s.cpu.pg = false → after.mem = s.mem) ∧
      (s.instructionDue = true → ∀ i t, fetchInstr s.nextTurn = .ok i t → after = t) ∧
      match e with
      | .pageFault _ la => after.cpu.cr2 = la
      | .generalProtection ec => after.cpu.cr2 = s.cpu.cr2 ∧ ec = 0#32) ∧
  (∀ (s t : State) (access : Access) (la : LinAddr),
    (∃ tr, walk access la s = .ok tr t) ∨ (∃ e, walk access la s = .fault (.exception e t)) →
    (s.cpu.pae = false → ∀ a, a ≠ (pdeAddress s.cpu.cr3 la).toNat →
      (∀ v u, readEntry4 (pdeAddress s.cpu.cr3 la) (cr3Index s.cpu) s = .ok v u →
        (s.cpu.pse && v.getLsbD 7) = false → a ≠ (pteAddress (v.setWidth 32) la).toNat) →
      t.mem.read a = s.mem.read a) ∧
    (s.cpu.pae = true → ∀ a, a ≠ (paeAddress s (.pdpteAt s.cpu.cr3 la)).toNat →
      (∀ d u, readEntry8 (paeAddress s (.pdpteAt s.cpu.cr3 la)) (cr3Index s.cpu) s = .ok d u →
        a ≠ (paeAddress s (.pdeAt d la)).toNat ∧
        ∀ v w, readEntry8 (paeAddress s (.pdeAt d la)) (structIndex d) u = .ok v w → v.getLsbD 7 = false →
          a ≠ (paeAddress s (.pteAt v la)).toNat) →
      t.mem.read a = s.mem.read a)) ∧
  (∀ (s t : State) (es : List EntryRef) (access : Access) (completed : Bool),
    accessedDirtyUpdates es access completed s = .ok () t →
    ∀ a, (∀ e ∈ es, a ≠ e.addr.toNat) → t.mem.read a = s.mem.read a) ∧
  (∀ (s : State) (e : EntryRef) (access : Access) (completed : Bool) (b : Byte),
    s.plainStructures → patValueLegal s.cpu.pat = true → s.holdsAt e.addr b →
    let bits := lookupOr s.platform.accessedDirty Config.accessedDirty
      { level := e.level, entry := e.value, access := access, completed := completed }
    ∃ (t : State) (v : Byte), accessedDirtyUpdates [e] access completed s = .ok () t ∧
      (t = s.setByte e.addr v ∨ t = s ∧ v = e.value.extractLsb' 0 8) ∧
      v.getLsbD 5 = bits.accessed ∧ v.getLsbD 6 = bits.dirty ∧
      ∀ i < 8, i ≠ 5 → i ≠ 6 → v.getLsbD i = e.value.getLsbD i) ∧
  ∀ (s t : State) (pa : PhysAddr) (idx : BitVec 3) (v : QWord),
    readEntry4 pa idx s = .ok v t ∨ readEntry8 pa idx s = .ok v t → t.mem = s.mem

/-! Events -/

/-- R103, R104, R105: no event but the choice of the running processor changes another processor, but for the
values and marks of its cached bytes, which an access that checks the caches updates (R68); a flush, a drop or a
control-register write changes nothing of it. Choosing another processor to run keeps every processor's own state and
the shared memory. -/
def Obligations.EventsLeaveOtherProcessors : Prop :=
  (∀ (e : Event) (s t : State), applyEvent e s = .ok () t → (∀ k, e ≠ .run k) →
    t.others.map Cpu.withoutBytes = s.others.map Cpu.withoutBytes) ∧
  (∀ (s t : State) (e : Event) (k : Nat) (pa : PhysAddr) (v : Word) (q : QWord),
    e ∈ [.flushTlb, .flushCaches, .tlbDrop k, .cacheDrop pa, .setCr0 v, .setCr3 v, .setCr4 v, .setMtrrDefType q] →
    applyEvent e s = .ok () t → t.others = s.others) ∧
  ∀ (k : Nat) (s t : State), applyEvent (.run k) s = .ok () t →
    (t.cpu :: t.others).Perm (s.cpu :: s.others) ∧ t.mem = s.mem ∧
      (∀ c, s.others[k]? = some c → t.cpu = c)

/-- R117 with D16: a write of CR0, CR3, CR4 or MTRRDefType changes that register and leaves cached
translations and cached bytes as they are. -/
def Obligations.ControlWritesKeepCachedState : Prop :=
  ∀ (s : State) (v : Word) (q : QWord),
    applyEvent (.setCr0 v) s = .ok () { s with cpu := { s.cpu with cr0 := v } } ∧
    applyEvent (.setCr3 v) s = .ok () { s with cpu := { s.cpu with cr3 := v } } ∧
    applyEvent (.setCr4 v) s = .ok () { s with cpu := { s.cpu with cr4 := v } } ∧
    applyEvent (.setMtrrDefType q) s = .ok () { s with cpu := { s.cpu with mtrrDefType := q } }

/-- R93: the error code of a page fault has bit 0 for a present entry, bit 1 for a write, bit 2 for CPL 3,
bit 3 for a reserved bit, and zeros above; the address goes to CR2 and nothing else changes. -/
def Obligations.PageFaultRecord : Prop :=
  ∀ (s : State) (present reserved : Bool) (access : Access) (la : LinAddr),
    ∃ ec : Word,
      (raisePageFault present reserved access la s : Res Unit) =
        .fault (.exception (.pageFault ec la) { s with cpu := { s.cpu with cr2 := la } }) ∧
      ec.getLsbD 0 = present ∧ (ec.getLsbD 1 = true ↔ access = .write) ∧
      (ec.getLsbD 2 = true ↔ s.cpu.cpl = 3#2) ∧ ec.getLsbD 3 = reserved ∧ ec.toNat < 16 ∧
      (Exception.pageFault ec la).vector = 14
end

