-- ==== Sys2Proof/Laws/Memory.lean ====
section
/-! SUPPORT. Memory: reading after writing, and the canonical form that every memory operation keeps. -/

namespace Sys2Proof.Machine

open Sys2Proof

@[simp] theorem Memory.read_nil (a : Nat) : Memory.read [] a = none := rfl

/-- Reading after a write: the byte written at its address, what was there before elsewhere. -/
theorem Memory.read_write (m : Memory) (a b : Nat) (v : Byte) :
    (m.write a v).read b = if b = a then some v else m.read b := by
  induction m with
  | nil => simp [Memory.write, Memory.read]
  | cons c m ih =>
    obtain ⟨k, w⟩ := c
    by_cases h1 : a < k
    · simp only [Memory.write, h1, if_true, Memory.read]
    · by_cases h2 : a = k
      · subst h2
        simp only [Memory.write, lt_irrefl, if_false, if_true, Memory.read]
        split_ifs <;> rfl
      · simp only [Memory.write, h1, h2, if_false, Memory.read, ih]
        by_cases h3 : b = a
        · subst h3
          simp [h2]
        · simp [h3]

@[simp] theorem Memory.read_write_same (m : Memory) (a : Nat) (v : Byte) : (m.write a v).read a = some v := by
  simp [Memory.read_write]

theorem Memory.read_write_other (m : Memory) {a b : Nat} (v : Byte) (h : b ≠ a) :
    (m.write a v).read b = m.read b := by
  simp [Memory.read_write, h]

theorem Memory.wfFrom_write (m : Memory) {lo a : Nat} (v : Byte) (hm : m.wfFrom lo = true) (hlo : lo ≤ a)
    (ha : a < 2 ^ 36) : (m.write a v).wfFrom lo = true := by
  induction m generalizing lo with
  | nil => simp [-Nat.reducePow, Memory.write, Memory.wfFrom, hlo, ha]
  | cons c m ih =>
    obtain ⟨k, w⟩ := c
    simp only [Memory.wfFrom, Bool.and_eq_true, decide_eq_true_eq] at hm
    obtain ⟨⟨h1, h2⟩, h3⟩ := hm
    simp only [Memory.write]
    split_ifs with h4 h5
    · simp [-Nat.reducePow, Memory.wfFrom, hlo, ha, h2, h3, Nat.succ_le_of_lt h4]
    · subst h5
      simp [-Nat.reducePow, Memory.wfFrom, h1, h2, h3]
    · have := ih h3 (by omega)
      simp [-Nat.reducePow, Memory.wfFrom, h1, h2, this]

/-- A write below 2^36 keeps the canonical form. -/
theorem Memory.wf_write (m : Memory) {a : Nat} (v : Byte) (hm : m.wf = true) (ha : a < 2 ^ 36) :
    (m.write a v).wf = true :=
  m.wfFrom_write v hm (Nat.zero_le a) ha

/-- A write at a physical address keeps the canonical form. -/
theorem Memory.wf_write_phys (m : Memory) (pa : PhysAddr) (v : Byte) (hm : m.wf = true) :
    (m.write pa.toNat v).wf = true :=
  m.wf_write v hm pa.isLt

/-- Writing bytes that end below 2^36 keeps the canonical form. -/
theorem Memory.wf_writeBytes (bs : List Byte) (m : Memory) (a : Nat) (hm : m.wf = true)
    (ha : a + bs.length ≤ 2 ^ 36) : (m.writeBytes a bs).wf = true := by
  induction bs generalizing m a with
  | nil => exact hm
  | cons b bs ih =>
    simp only [List.length_cons] at ha
    exact ih _ _ (m.wf_write b hm (by omega)) (by omega)

/-- Memory at reset has its canonical form. -/
theorem reset_mem_wf : State.reset.mem.wf = true := rfl

theorem writeBack_wf (ls : List CacheLine) (m : Memory) (hm : m.wf = true) : (writeBack m ls).wf = true := by
  induction ls generalizing m with
  | nil => exact hm
  | cons l ls ih =>
    simp only [writeBack]
    split_ifs
    · exact ih _ (m.wf_write_phys _ _ hm)
    · exact ih _ hm

/-- Writing back leaves every address that no dirty byte is from. -/
theorem writeBack_read_other (ls : List CacheLine) (m : Memory) (a : Nat)
    (h : ∀ l ∈ ls, l.dirty = true → l.addr.toNat ≠ a) : (writeBack m ls).read a = m.read a := by
  induction ls generalizing m with
  | nil => rfl
  | cons l ls ih =>
    simp only [writeBack]
    split_ifs with hd
    · rw [ih _ fun k hk => h k (List.mem_cons_of_mem _ hk)]
      exact m.read_write_other _ (h l List.mem_cons_self hd).symm
    · exact ih _ fun k hk => h k (List.mem_cons_of_mem _ hk)

end Sys2Proof.Machine
end

