-- ==== Sys2Proof/Laws/State.lean ====
section
/-! SUPPORT. One lemma per field per update of the state, each true by definition or by the two cases of it. -/

namespace Sys2Proof.Machine

open Sys2Proof

section
variable (s : State)

@[simp] theorem State.advance_others : s.advance.others = s.others := rfl
@[simp] theorem State.advance_mem : s.advance.mem = s.mem := rfl
@[simp] theorem State.advance_platform : s.advance.platform = s.platform := rfl
@[simp] theorem State.advance_remaps : s.advance.remaps = s.remaps := rfl
@[simp] theorem State.advance_stored : s.advance.stored = s.stored := rfl
@[simp] theorem State.advance_pending : s.advance.pending = s.pending := rfl
@[simp] theorem State.advance_readData : s.advance.readData = s.readData := rfl
@[simp] theorem State.advance_freeCount : s.advance.freeCount = s.freeCount := rfl
@[simp] theorem State.advance_id : s.advance.cpu.id = s.cpu.id := rfl
@[simp] theorem State.advance_eax : s.advance.cpu.eax = s.cpu.eax := rfl
@[simp] theorem State.advance_ebx : s.advance.cpu.ebx = s.cpu.ebx := rfl
@[simp] theorem State.advance_ecx : s.advance.cpu.ecx = s.cpu.ecx := rfl
@[simp] theorem State.advance_edx : s.advance.cpu.edx = s.cpu.edx := rfl
@[simp] theorem State.advance_pc : s.advance.cpu.pc = s.cpu.pc + 2#32 := rfl
@[simp] theorem State.advance_cpl : s.advance.cpu.cpl = s.cpu.cpl := rfl
@[simp] theorem State.advance_cr0 : s.advance.cpu.cr0 = s.cpu.cr0 := rfl
@[simp] theorem State.advance_cr2 : s.advance.cpu.cr2 = s.cpu.cr2 := rfl
@[simp] theorem State.advance_cr3 : s.advance.cpu.cr3 = s.cpu.cr3 := rfl
@[simp] theorem State.advance_cr4 : s.advance.cpu.cr4 = s.cpu.cr4 := rfl
@[simp] theorem State.advance_pat : s.advance.cpu.pat = s.cpu.pat := rfl
@[simp] theorem State.advance_olderPats : s.advance.cpu.olderPats = s.cpu.olderPats := rfl
@[simp] theorem State.advance_mtrrDefType : s.advance.cpu.mtrrDefType = s.cpu.mtrrDefType := rfl
@[simp] theorem State.advance_mtrrs : s.advance.cpu.mtrrs = s.cpu.mtrrs := rfl
@[simp] theorem State.advance_tlb : s.advance.cpu.tlb = s.cpu.tlb := rfl
@[simp] theorem State.advance_cache : s.advance.cpu.cache = s.cpu.cache := rfl
@[simp] theorem State.advance_cacheable : s.advance.cpu.cacheable = s.cpu.cacheable := rfl

end

section
variable (s : State)

@[simp] theorem State.drawn_others : s.drawn.others = s.others := rfl
@[simp] theorem State.drawn_mem : s.drawn.mem = s.mem := rfl
@[simp] theorem State.drawn_platform : s.drawn.platform = s.platform := rfl
@[simp] theorem State.drawn_remaps : s.drawn.remaps = s.remaps := rfl
@[simp] theorem State.drawn_stored : s.drawn.stored = s.stored := rfl
@[simp] theorem State.drawn_pending : s.drawn.pending = s.pending := rfl
@[simp] theorem State.drawn_readData : s.drawn.readData = s.readData := rfl
@[simp] theorem State.drawn_freeCount : s.drawn.freeCount = s.freeCount + 1 := rfl
@[simp] theorem State.drawn_cpu : s.drawn.cpu = s.cpu := rfl

end

section
variable (s : State) (v : QWord)

@[simp] theorem State.setMsrPair_others : (s.setMsrPair v).others = s.others := rfl
@[simp] theorem State.setMsrPair_mem : (s.setMsrPair v).mem = s.mem := rfl
@[simp] theorem State.setMsrPair_platform : (s.setMsrPair v).platform = s.platform := rfl
@[simp] theorem State.setMsrPair_remaps : (s.setMsrPair v).remaps = s.remaps := rfl
@[simp] theorem State.setMsrPair_stored : (s.setMsrPair v).stored = s.stored := rfl
@[simp] theorem State.setMsrPair_pending : (s.setMsrPair v).pending = s.pending := rfl
@[simp] theorem State.setMsrPair_readData : (s.setMsrPair v).readData = s.readData := rfl
@[simp] theorem State.setMsrPair_freeCount : (s.setMsrPair v).freeCount = s.freeCount := rfl
@[simp] theorem State.setMsrPair_id : (s.setMsrPair v).cpu.id = s.cpu.id := rfl
@[simp] theorem State.setMsrPair_eax : (s.setMsrPair v).cpu.eax = v.extractLsb' 0 32 := rfl
@[simp] theorem State.setMsrPair_ebx : (s.setMsrPair v).cpu.ebx = s.cpu.ebx := rfl
@[simp] theorem State.setMsrPair_ecx : (s.setMsrPair v).cpu.ecx = s.cpu.ecx := rfl
@[simp] theorem State.setMsrPair_edx : (s.setMsrPair v).cpu.edx = v.extractLsb' 32 32 := rfl
@[simp] theorem State.setMsrPair_pc : (s.setMsrPair v).cpu.pc = s.cpu.pc := rfl
@[simp] theorem State.setMsrPair_cpl : (s.setMsrPair v).cpu.cpl = s.cpu.cpl := rfl
@[simp] theorem State.setMsrPair_cr0 : (s.setMsrPair v).cpu.cr0 = s.cpu.cr0 := rfl
@[simp] theorem State.setMsrPair_cr2 : (s.setMsrPair v).cpu.cr2 = s.cpu.cr2 := rfl
@[simp] theorem State.setMsrPair_cr3 : (s.setMsrPair v).cpu.cr3 = s.cpu.cr3 := rfl
@[simp] theorem State.setMsrPair_cr4 : (s.setMsrPair v).cpu.cr4 = s.cpu.cr4 := rfl
@[simp] theorem State.setMsrPair_pat : (s.setMsrPair v).cpu.pat = s.cpu.pat := rfl
@[simp] theorem State.setMsrPair_olderPats : (s.setMsrPair v).cpu.olderPats = s.cpu.olderPats := rfl
@[simp] theorem State.setMsrPair_mtrrDefType : (s.setMsrPair v).cpu.mtrrDefType = s.cpu.mtrrDefType := rfl
@[simp] theorem State.setMsrPair_mtrrs : (s.setMsrPair v).cpu.mtrrs = s.cpu.mtrrs := rfl
@[simp] theorem State.setMsrPair_tlb : (s.setMsrPair v).cpu.tlb = s.cpu.tlb := rfl
@[simp] theorem State.setMsrPair_cache : (s.setMsrPair v).cpu.cache = s.cpu.cache := rfl
@[simp] theorem State.setMsrPair_cacheable : (s.setMsrPair v).cpu.cacheable = s.cpu.cacheable := rfl

end

section
variable (s : State) (v : QWord)

@[simp] theorem State.setPat_others : (s.setPat v).others = s.others := rfl
@[simp] theorem State.setPat_mem : (s.setPat v).mem = s.mem := rfl
@[simp] theorem State.setPat_platform : (s.setPat v).platform = s.platform := rfl
@[simp] theorem State.setPat_remaps : (s.setPat v).remaps = s.remaps := rfl
@[simp] theorem State.setPat_stored : (s.setPat v).stored = s.stored := rfl
@[simp] theorem State.setPat_pending : (s.setPat v).pending = s.pending := rfl
@[simp] theorem State.setPat_readData : (s.setPat v).readData = s.readData := rfl
@[simp] theorem State.setPat_freeCount : (s.setPat v).freeCount = s.freeCount := rfl
@[simp] theorem State.setPat_id : (s.setPat v).cpu.id = s.cpu.id := rfl
@[simp] theorem State.setPat_eax : (s.setPat v).cpu.eax = s.cpu.eax := rfl
@[simp] theorem State.setPat_ebx : (s.setPat v).cpu.ebx = s.cpu.ebx := rfl
@[simp] theorem State.setPat_ecx : (s.setPat v).cpu.ecx = s.cpu.ecx := rfl
@[simp] theorem State.setPat_edx : (s.setPat v).cpu.edx = s.cpu.edx := rfl
@[simp] theorem State.setPat_pc : (s.setPat v).cpu.pc = s.cpu.pc := rfl
@[simp] theorem State.setPat_cpl : (s.setPat v).cpu.cpl = s.cpu.cpl := rfl
@[simp] theorem State.setPat_cr0 : (s.setPat v).cpu.cr0 = s.cpu.cr0 := rfl
@[simp] theorem State.setPat_cr2 : (s.setPat v).cpu.cr2 = s.cpu.cr2 := rfl
@[simp] theorem State.setPat_cr3 : (s.setPat v).cpu.cr3 = s.cpu.cr3 := rfl
@[simp] theorem State.setPat_cr4 : (s.setPat v).cpu.cr4 = s.cpu.cr4 := rfl
@[simp] theorem State.setPat_pat : (s.setPat v).cpu.pat = v := rfl
@[simp] theorem State.setPat_olderPats : (s.setPat v).cpu.olderPats = s.cpu.olderPatsAfter v := rfl
@[simp] theorem State.setPat_mtrrDefType : (s.setPat v).cpu.mtrrDefType = s.cpu.mtrrDefType := rfl
@[simp] theorem State.setPat_mtrrs : (s.setPat v).cpu.mtrrs = s.cpu.mtrrs := rfl
@[simp] theorem State.setPat_tlb : (s.setPat v).cpu.tlb = s.cpu.tlb := rfl
@[simp] theorem State.setPat_cache : (s.setPat v).cpu.cache = s.cpu.cache := rfl
@[simp] theorem State.setPat_cacheable : (s.setPat v).cpu.cacheable = s.cpu.cacheable := rfl

end

section
variable (s : State) (a b c d : Word)

@[simp] theorem State.setCpuidRegs_others : (s.setCpuidRegs a b c d).others = s.others := rfl
@[simp] theorem State.setCpuidRegs_mem : (s.setCpuidRegs a b c d).mem = s.mem := rfl
@[simp] theorem State.setCpuidRegs_platform : (s.setCpuidRegs a b c d).platform = s.platform := rfl
@[simp] theorem State.setCpuidRegs_remaps : (s.setCpuidRegs a b c d).remaps = s.remaps := rfl
@[simp] theorem State.setCpuidRegs_stored : (s.setCpuidRegs a b c d).stored = s.stored := rfl
@[simp] theorem State.setCpuidRegs_pending : (s.setCpuidRegs a b c d).pending = s.pending := rfl
@[simp] theorem State.setCpuidRegs_readData : (s.setCpuidRegs a b c d).readData = s.readData := rfl
@[simp] theorem State.setCpuidRegs_freeCount : (s.setCpuidRegs a b c d).freeCount = s.freeCount := rfl
@[simp] theorem State.setCpuidRegs_id : (s.setCpuidRegs a b c d).cpu.id = s.cpu.id := rfl
@[simp] theorem State.setCpuidRegs_eax : (s.setCpuidRegs a b c d).cpu.eax = a := rfl
@[simp] theorem State.setCpuidRegs_ebx : (s.setCpuidRegs a b c d).cpu.ebx = b := rfl
@[simp] theorem State.setCpuidRegs_ecx : (s.setCpuidRegs a b c d).cpu.ecx = c := rfl
@[simp] theorem State.setCpuidRegs_edx : (s.setCpuidRegs a b c d).cpu.edx = d := rfl
@[simp] theorem State.setCpuidRegs_pc : (s.setCpuidRegs a b c d).cpu.pc = s.cpu.pc := rfl
@[simp] theorem State.setCpuidRegs_cpl : (s.setCpuidRegs a b c d).cpu.cpl = s.cpu.cpl := rfl
@[simp] theorem State.setCpuidRegs_cr0 : (s.setCpuidRegs a b c d).cpu.cr0 = s.cpu.cr0 := rfl
@[simp] theorem State.setCpuidRegs_cr2 : (s.setCpuidRegs a b c d).cpu.cr2 = s.cpu.cr2 := rfl
@[simp] theorem State.setCpuidRegs_cr3 : (s.setCpuidRegs a b c d).cpu.cr3 = s.cpu.cr3 := rfl
@[simp] theorem State.setCpuidRegs_cr4 : (s.setCpuidRegs a b c d).cpu.cr4 = s.cpu.cr4 := rfl
@[simp] theorem State.setCpuidRegs_pat : (s.setCpuidRegs a b c d).cpu.pat = s.cpu.pat := rfl
@[simp] theorem State.setCpuidRegs_olderPats : (s.setCpuidRegs a b c d).cpu.olderPats = s.cpu.olderPats := rfl
@[simp] theorem State.setCpuidRegs_mtrrDefType : (s.setCpuidRegs a b c d).cpu.mtrrDefType = s.cpu.mtrrDefType := rfl
@[simp] theorem State.setCpuidRegs_mtrrs : (s.setCpuidRegs a b c d).cpu.mtrrs = s.cpu.mtrrs := rfl
@[simp] theorem State.setCpuidRegs_tlb : (s.setCpuidRegs a b c d).cpu.tlb = s.cpu.tlb := rfl
@[simp] theorem State.setCpuidRegs_cache : (s.setCpuidRegs a b c d).cpu.cache = s.cpu.cache := rfl
@[simp] theorem State.setCpuidRegs_cacheable : (s.setCpuidRegs a b c d).cpu.cacheable = s.cpu.cacheable := rfl

end

section
variable (s : State) (l : CacheLine)

@[simp] theorem State.setLine_others : (s.setLine l).others = s.others := rfl
@[simp] theorem State.setLine_mem : (s.setLine l).mem = s.mem := rfl
@[simp] theorem State.setLine_platform : (s.setLine l).platform = s.platform := rfl
@[simp] theorem State.setLine_remaps : (s.setLine l).remaps = s.remaps := rfl
@[simp] theorem State.setLine_stored : (s.setLine l).stored = s.stored := rfl
@[simp] theorem State.setLine_pending : (s.setLine l).pending = s.pending := rfl
@[simp] theorem State.setLine_readData : (s.setLine l).readData = s.readData := rfl
@[simp] theorem State.setLine_freeCount : (s.setLine l).freeCount = s.freeCount := rfl
@[simp] theorem State.setLine_id : (s.setLine l).cpu.id = s.cpu.id := rfl
@[simp] theorem State.setLine_eax : (s.setLine l).cpu.eax = s.cpu.eax := rfl
@[simp] theorem State.setLine_ebx : (s.setLine l).cpu.ebx = s.cpu.ebx := rfl
@[simp] theorem State.setLine_ecx : (s.setLine l).cpu.ecx = s.cpu.ecx := rfl
@[simp] theorem State.setLine_edx : (s.setLine l).cpu.edx = s.cpu.edx := rfl
@[simp] theorem State.setLine_pc : (s.setLine l).cpu.pc = s.cpu.pc := rfl
@[simp] theorem State.setLine_cpl : (s.setLine l).cpu.cpl = s.cpu.cpl := rfl
@[simp] theorem State.setLine_cr0 : (s.setLine l).cpu.cr0 = s.cpu.cr0 := rfl
@[simp] theorem State.setLine_cr2 : (s.setLine l).cpu.cr2 = s.cpu.cr2 := rfl
@[simp] theorem State.setLine_cr3 : (s.setLine l).cpu.cr3 = s.cpu.cr3 := rfl
@[simp] theorem State.setLine_cr4 : (s.setLine l).cpu.cr4 = s.cpu.cr4 := rfl
@[simp] theorem State.setLine_pat : (s.setLine l).cpu.pat = s.cpu.pat := rfl
@[simp] theorem State.setLine_olderPats : (s.setLine l).cpu.olderPats = s.cpu.olderPats := rfl
@[simp] theorem State.setLine_mtrrDefType : (s.setLine l).cpu.mtrrDefType = s.cpu.mtrrDefType := rfl
@[simp] theorem State.setLine_mtrrs : (s.setLine l).cpu.mtrrs = s.cpu.mtrrs := rfl
@[simp] theorem State.setLine_tlb : (s.setLine l).cpu.tlb = s.cpu.tlb := rfl
@[simp] theorem State.setLine_cache : (s.setLine l).cpu.cache = l :: s.cpu.cache.filter (fun k => k.addr != l.addr) := rfl
@[simp] theorem State.setLine_cacheable : (s.setLine l).cpu.cacheable = s.cpu.cacheable := rfl

end

section
variable (s : State) (pa : PhysAddr)

@[simp] theorem State.dropLine_others : (s.dropLine pa).others = s.others := rfl
@[simp] theorem State.dropLine_mem : (s.dropLine pa).mem = s.mem := rfl
@[simp] theorem State.dropLine_platform : (s.dropLine pa).platform = s.platform := rfl
@[simp] theorem State.dropLine_remaps : (s.dropLine pa).remaps = s.remaps := rfl
@[simp] theorem State.dropLine_stored : (s.dropLine pa).stored = s.stored := rfl
@[simp] theorem State.dropLine_pending : (s.dropLine pa).pending = s.pending := rfl
@[simp] theorem State.dropLine_readData : (s.dropLine pa).readData = s.readData := rfl
@[simp] theorem State.dropLine_freeCount : (s.dropLine pa).freeCount = s.freeCount := rfl
@[simp] theorem State.dropLine_id : (s.dropLine pa).cpu.id = s.cpu.id := rfl
@[simp] theorem State.dropLine_eax : (s.dropLine pa).cpu.eax = s.cpu.eax := rfl
@[simp] theorem State.dropLine_ebx : (s.dropLine pa).cpu.ebx = s.cpu.ebx := rfl
@[simp] theorem State.dropLine_ecx : (s.dropLine pa).cpu.ecx = s.cpu.ecx := rfl
@[simp] theorem State.dropLine_edx : (s.dropLine pa).cpu.edx = s.cpu.edx := rfl
@[simp] theorem State.dropLine_pc : (s.dropLine pa).cpu.pc = s.cpu.pc := rfl
@[simp] theorem State.dropLine_cpl : (s.dropLine pa).cpu.cpl = s.cpu.cpl := rfl
@[simp] theorem State.dropLine_cr0 : (s.dropLine pa).cpu.cr0 = s.cpu.cr0 := rfl
@[simp] theorem State.dropLine_cr2 : (s.dropLine pa).cpu.cr2 = s.cpu.cr2 := rfl
@[simp] theorem State.dropLine_cr3 : (s.dropLine pa).cpu.cr3 = s.cpu.cr3 := rfl
@[simp] theorem State.dropLine_cr4 : (s.dropLine pa).cpu.cr4 = s.cpu.cr4 := rfl
@[simp] theorem State.dropLine_pat : (s.dropLine pa).cpu.pat = s.cpu.pat := rfl
@[simp] theorem State.dropLine_olderPats : (s.dropLine pa).cpu.olderPats = s.cpu.olderPats := rfl
@[simp] theorem State.dropLine_mtrrDefType : (s.dropLine pa).cpu.mtrrDefType = s.cpu.mtrrDefType := rfl
@[simp] theorem State.dropLine_mtrrs : (s.dropLine pa).cpu.mtrrs = s.cpu.mtrrs := rfl
@[simp] theorem State.dropLine_tlb : (s.dropLine pa).cpu.tlb = s.cpu.tlb := rfl
@[simp] theorem State.dropLine_cache : (s.dropLine pa).cpu.cache = s.cpu.cache.filter (fun k => k.addr != pa) := rfl
@[simp] theorem State.dropLine_cacheable : (s.dropLine pa).cpu.cacheable = s.cpu.cacheable := rfl

end

section
variable (s : State) (pa : PhysAddr) (v : Byte)

@[simp] theorem State.setByte_others : (s.setByte pa v).others = s.others := rfl
@[simp] theorem State.setByte_mem : (s.setByte pa v).mem = s.mem.write pa.toNat v := rfl
@[simp] theorem State.setByte_platform : (s.setByte pa v).platform = s.platform := rfl
@[simp] theorem State.setByte_remaps : (s.setByte pa v).remaps = s.remaps := rfl
@[simp] theorem State.setByte_stored : (s.setByte pa v).stored = s.stored := rfl
@[simp] theorem State.setByte_pending : (s.setByte pa v).pending = s.pending := rfl
@[simp] theorem State.setByte_readData : (s.setByte pa v).readData = s.readData := rfl
@[simp] theorem State.setByte_freeCount : (s.setByte pa v).freeCount = s.freeCount := rfl
@[simp] theorem State.setByte_cpu : (s.setByte pa v).cpu = s.cpu := rfl

end

section
variable (s : State) (pa : PhysAddr) (v : Byte)

@[simp] theorem State.setByteAndCopies_others : (s.setByteAndCopies pa v).others = s.others.map (·.updateCopy pa v true) := rfl
@[simp] theorem State.setByteAndCopies_mem : (s.setByteAndCopies pa v).mem = s.mem.write pa.toNat v := rfl
@[simp] theorem State.setByteAndCopies_platform : (s.setByteAndCopies pa v).platform = s.platform := rfl
@[simp] theorem State.setByteAndCopies_remaps : (s.setByteAndCopies pa v).remaps = s.remaps := rfl
@[simp] theorem State.setByteAndCopies_stored : (s.setByteAndCopies pa v).stored = s.stored := rfl
@[simp] theorem State.setByteAndCopies_pending : (s.setByteAndCopies pa v).pending = s.pending := rfl
@[simp] theorem State.setByteAndCopies_readData : (s.setByteAndCopies pa v).readData = s.readData := rfl
@[simp] theorem State.setByteAndCopies_freeCount : (s.setByteAndCopies pa v).freeCount = s.freeCount := rfl
@[simp] theorem State.setByteAndCopies_cpu : (s.setByteAndCopies pa v).cpu = s.cpu.updateCopy pa v true := rfl

end

section
variable (s : State) (pa : PhysAddr)

@[simp] theorem State.undefineByte_others : (s.undefineByte pa).others = s.others.zipIdx.map fun (c, i) => c.updateCopy pa (Config.freeByte (s.freeCount + 2 + i)) false := rfl
@[simp] theorem State.undefineByte_mem : (s.undefineByte pa).mem = s.mem.write pa.toNat (Config.freeByte s.freeCount) := rfl
@[simp] theorem State.undefineByte_platform : (s.undefineByte pa).platform = s.platform := rfl
@[simp] theorem State.undefineByte_remaps : (s.undefineByte pa).remaps = s.remaps := rfl
@[simp] theorem State.undefineByte_stored : (s.undefineByte pa).stored = s.stored := rfl
@[simp] theorem State.undefineByte_pending : (s.undefineByte pa).pending = s.pending := rfl
@[simp] theorem State.undefineByte_readData : (s.undefineByte pa).readData = s.readData := rfl
@[simp] theorem State.undefineByte_freeCount : (s.undefineByte pa).freeCount = s.freeCount + 2 + s.others.length := rfl
@[simp] theorem State.undefineByte_cpu : (s.undefineByte pa).cpu = s.cpu.updateCopy pa (Config.freeByte (s.freeCount + 1)) false := rfl

end

section
variable (s : State)

@[simp] theorem State.flushTlb_others : s.flushTlb.others = s.others := rfl
@[simp] theorem State.flushTlb_mem : s.flushTlb.mem = s.mem := rfl
@[simp] theorem State.flushTlb_platform : s.flushTlb.platform = s.platform := rfl
@[simp] theorem State.flushTlb_remaps : s.flushTlb.remaps = s.remaps := rfl
@[simp] theorem State.flushTlb_stored : s.flushTlb.stored = s.stored := rfl
@[simp] theorem State.flushTlb_pending : s.flushTlb.pending = s.pending := rfl
@[simp] theorem State.flushTlb_readData : s.flushTlb.readData = s.readData := rfl
@[simp] theorem State.flushTlb_freeCount : s.flushTlb.freeCount = s.freeCount := rfl
@[simp] theorem State.flushTlb_id : s.flushTlb.cpu.id = s.cpu.id := rfl
@[simp] theorem State.flushTlb_eax : s.flushTlb.cpu.eax = s.cpu.eax := rfl
@[simp] theorem State.flushTlb_ebx : s.flushTlb.cpu.ebx = s.cpu.ebx := rfl
@[simp] theorem State.flushTlb_ecx : s.flushTlb.cpu.ecx = s.cpu.ecx := rfl
@[simp] theorem State.flushTlb_edx : s.flushTlb.cpu.edx = s.cpu.edx := rfl
@[simp] theorem State.flushTlb_pc : s.flushTlb.cpu.pc = s.cpu.pc := rfl
@[simp] theorem State.flushTlb_cpl : s.flushTlb.cpu.cpl = s.cpu.cpl := rfl
@[simp] theorem State.flushTlb_cr0 : s.flushTlb.cpu.cr0 = s.cpu.cr0 := rfl
@[simp] theorem State.flushTlb_cr2 : s.flushTlb.cpu.cr2 = s.cpu.cr2 := rfl
@[simp] theorem State.flushTlb_cr3 : s.flushTlb.cpu.cr3 = s.cpu.cr3 := rfl
@[simp] theorem State.flushTlb_cr4 : s.flushTlb.cpu.cr4 = s.cpu.cr4 := rfl
@[simp] theorem State.flushTlb_pat : s.flushTlb.cpu.pat = s.cpu.pat := rfl
@[simp] theorem State.flushTlb_olderPats : s.flushTlb.cpu.olderPats = tlbFlushedPats s.cpu.olderPats := rfl
@[simp] theorem State.flushTlb_mtrrDefType : s.flushTlb.cpu.mtrrDefType = s.cpu.mtrrDefType := rfl
@[simp] theorem State.flushTlb_mtrrs : s.flushTlb.cpu.mtrrs = s.cpu.mtrrs := rfl
@[simp] theorem State.flushTlb_tlb : s.flushTlb.cpu.tlb = [] := rfl
@[simp] theorem State.flushTlb_cache : s.flushTlb.cpu.cache = s.cpu.cache := rfl
@[simp] theorem State.flushTlb_cacheable : s.flushTlb.cpu.cacheable = s.cpu.cacheable := rfl

end

section
variable (s : State)

@[simp] theorem State.flushCaches_others : s.flushCaches.others = s.others := rfl
@[simp] theorem State.flushCaches_mem : s.flushCaches.mem = writeBack s.mem s.cpu.cache := rfl
@[simp] theorem State.flushCaches_platform : s.flushCaches.platform = s.platform := rfl
@[simp] theorem State.flushCaches_remaps : s.flushCaches.remaps = s.remaps.filter fun m => s.others.any fun c => c.cacheable.any m.remapsFrame := rfl
@[simp] theorem State.flushCaches_stored : s.flushCaches.stored = s.stored := rfl
@[simp] theorem State.flushCaches_pending : s.flushCaches.pending = s.pending := rfl
@[simp] theorem State.flushCaches_readData : s.flushCaches.readData = s.readData := rfl
@[simp] theorem State.flushCaches_freeCount : s.flushCaches.freeCount = s.freeCount := rfl
@[simp] theorem State.flushCaches_id : s.flushCaches.cpu.id = s.cpu.id := rfl
@[simp] theorem State.flushCaches_eax : s.flushCaches.cpu.eax = s.cpu.eax := rfl
@[simp] theorem State.flushCaches_ebx : s.flushCaches.cpu.ebx = s.cpu.ebx := rfl
@[simp] theorem State.flushCaches_ecx : s.flushCaches.cpu.ecx = s.cpu.ecx := rfl
@[simp] theorem State.flushCaches_edx : s.flushCaches.cpu.edx = s.cpu.edx := rfl
@[simp] theorem State.flushCaches_pc : s.flushCaches.cpu.pc = s.cpu.pc := rfl
@[simp] theorem State.flushCaches_cpl : s.flushCaches.cpu.cpl = s.cpu.cpl := rfl
@[simp] theorem State.flushCaches_cr0 : s.flushCaches.cpu.cr0 = s.cpu.cr0 := rfl
@[simp] theorem State.flushCaches_cr2 : s.flushCaches.cpu.cr2 = s.cpu.cr2 := rfl
@[simp] theorem State.flushCaches_cr3 : s.flushCaches.cpu.cr3 = s.cpu.cr3 := rfl
@[simp] theorem State.flushCaches_cr4 : s.flushCaches.cpu.cr4 = s.cpu.cr4 := rfl
@[simp] theorem State.flushCaches_pat : s.flushCaches.cpu.pat = s.cpu.pat := rfl
@[simp] theorem State.flushCaches_olderPats : s.flushCaches.cpu.olderPats = cachesFlushedPats s.cpu.olderPats := rfl
@[simp] theorem State.flushCaches_mtrrDefType : s.flushCaches.cpu.mtrrDefType = s.cpu.mtrrDefType := rfl
@[simp] theorem State.flushCaches_mtrrs : s.flushCaches.cpu.mtrrs = s.cpu.mtrrs := rfl
@[simp] theorem State.flushCaches_tlb : s.flushCaches.cpu.tlb = s.cpu.tlb := rfl
@[simp] theorem State.flushCaches_cache : s.flushCaches.cpu.cache = [] := rfl
@[simp] theorem State.flushCaches_cacheable : s.flushCaches.cpu.cacheable = s.cpu.cacheable.filter fun f => !s.remaps.any fun m => m.remapsFrame f := rfl

end

section
variable (s : State)

@[simp] theorem State.nextTurn_others : s.nextTurn.others = s.others.map fun c => Cpu.noteCacheable c s := rfl
@[simp] theorem State.nextTurn_mem : s.nextTurn.mem = s.mem := rfl
@[simp] theorem State.nextTurn_platform : s.nextTurn.platform = s.platform := rfl
@[simp] theorem State.nextTurn_remaps : s.nextTurn.remaps = s.noteMappings.remaps := rfl
@[simp] theorem State.nextTurn_stored : s.nextTurn.stored = s.stored := rfl
@[simp] theorem State.nextTurn_pending : s.nextTurn.pending = s.pending.tail := rfl
@[simp] theorem State.nextTurn_readData : s.nextTurn.readData = s.readData := rfl
@[simp] theorem State.nextTurn_freeCount : s.nextTurn.freeCount = s.freeCount := rfl
@[simp] theorem State.nextTurn_cpu : s.nextTurn.cpu = s.cpu.noteCacheable s := rfl

end

section
variable (s : State) (as : List Nat)

@[simp] theorem State.noteStored_others : (s.noteStored as).others = s.others := rfl
@[simp] theorem State.noteStored_mem : (s.noteStored as).mem = s.mem := rfl
@[simp] theorem State.noteStored_platform : (s.noteStored as).platform = s.platform := rfl
@[simp] theorem State.noteStored_remaps : (s.noteStored as).remaps = s.remaps := rfl
@[simp] theorem State.noteStored_stored : (s.noteStored as).stored = as ++ s.stored := rfl
@[simp] theorem State.noteStored_pending : (s.noteStored as).pending = s.pending := rfl
@[simp] theorem State.noteStored_readData : (s.noteStored as).readData = s.readData := rfl
@[simp] theorem State.noteStored_freeCount : (s.noteStored as).freeCount = s.freeCount := rfl
@[simp] theorem State.noteStored_cpu : (s.noteStored as).cpu = s.cpu := rfl

end

section
variable (c : Cpu) (s : State)

@[simp] theorem Cpu.noteCacheable_id : (c.noteCacheable s).id = c.id := by
  unfold Cpu.noteCacheable; split <;> rfl
@[simp] theorem Cpu.noteCacheable_eax : (c.noteCacheable s).eax = c.eax := by
  unfold Cpu.noteCacheable; split <;> rfl
@[simp] theorem Cpu.noteCacheable_ebx : (c.noteCacheable s).ebx = c.ebx := by
  unfold Cpu.noteCacheable; split <;> rfl
@[simp] theorem Cpu.noteCacheable_ecx : (c.noteCacheable s).ecx = c.ecx := by
  unfold Cpu.noteCacheable; split <;> rfl
@[simp] theorem Cpu.noteCacheable_edx : (c.noteCacheable s).edx = c.edx := by
  unfold Cpu.noteCacheable; split <;> rfl
@[simp] theorem Cpu.noteCacheable_pc : (c.noteCacheable s).pc = c.pc := by
  unfold Cpu.noteCacheable; split <;> rfl
@[simp] theorem Cpu.noteCacheable_cpl : (c.noteCacheable s).cpl = c.cpl := by
  unfold Cpu.noteCacheable; split <;> rfl
@[simp] theorem Cpu.noteCacheable_cr0 : (c.noteCacheable s).cr0 = c.cr0 := by
  unfold Cpu.noteCacheable; split <;> rfl
@[simp] theorem Cpu.noteCacheable_cr2 : (c.noteCacheable s).cr2 = c.cr2 := by
  unfold Cpu.noteCacheable; split <;> rfl
@[simp] theorem Cpu.noteCacheable_cr3 : (c.noteCacheable s).cr3 = c.cr3 := by
  unfold Cpu.noteCacheable; split <;> rfl
@[simp] theorem Cpu.noteCacheable_cr4 : (c.noteCacheable s).cr4 = c.cr4 := by
  unfold Cpu.noteCacheable; split <;> rfl
@[simp] theorem Cpu.noteCacheable_pat : (c.noteCacheable s).pat = c.pat := by
  unfold Cpu.noteCacheable; split <;> rfl
@[simp] theorem Cpu.noteCacheable_olderPats : (c.noteCacheable s).olderPats = c.olderPats := by
  unfold Cpu.noteCacheable; split <;> rfl
@[simp] theorem Cpu.noteCacheable_mtrrDefType : (c.noteCacheable s).mtrrDefType = c.mtrrDefType := by
  unfold Cpu.noteCacheable; split <;> rfl
@[simp] theorem Cpu.noteCacheable_mtrrs : (c.noteCacheable s).mtrrs = c.mtrrs := by
  unfold Cpu.noteCacheable; split <;> rfl
@[simp] theorem Cpu.noteCacheable_tlb : (c.noteCacheable s).tlb = c.tlb := by
  unfold Cpu.noteCacheable; split <;> rfl
@[simp] theorem Cpu.noteCacheable_cache : (c.noteCacheable s).cache = c.cache := by
  unfold Cpu.noteCacheable; split <;> rfl

end

end Sys2Proof.Machine
end

