-- ==== Sys2Proof/Laws/Ops.lean ====
section
/-! SUPPORT. What each shared operation can answer. -/

namespace Sys2Proof.Machine

open Sys2Proof

@[simp] theorem Res.bind_ok {α β : Type} (a : α) (s : State) (k : α → State → Res β) :
    (Res.ok a s).bind k = k a s := rfl

@[simp] theorem Res.bind_fault {α β : Type} (f : Fault) (k : α → State → Res β) :
    (Res.fault f : Res α).bind k = .fault f := rfl

@[simp] theorem Res.bind_refused {α β : Type} (r : Refusal) (k : α → State → Res β) :
    (Res.refused r : Res α).bind k = .refused r := rfl

/-- A bind completes exactly where both parts do. -/
theorem Res.bind_eq_ok {α β : Type} {r : Res α} {k : α → State → Res β} {b : β} {u : State} :
    r.bind k = .ok b u ↔ ∃ a t, r = .ok a t ∧ k a t = .ok b u := by
  cases r <;> simp [Res.bind]

@[simp] theorem Res.outcome_eq_next {r : Res Unit} {t : State} : r.outcome = .next t ↔ r = .ok () t := by
  cases r <;> simp [Res.outcome]

/-- The effective type is formed, without change of state, exactly where R63 gives one. -/
theorem effectiveType_eq_ok {pa : PhysAddr} {page : Option PatType} {s t : State} {ty : EffType} :
    effectiveType pa page s = .ok ty t ↔ effectiveType? s.cpu pa page = some ty ∧ t = s := by
  unfold effectiveType
  cases effectiveType? s.cpu pa page <;> simp [eq_comm]

/-- The lookup in one value of the PAT answers, without change of state, exactly where the field holds a type. -/
theorem patLookupIn_eq_ok {pat : QWord} {idx : BitVec 3} {s t : State} {p : PatType} :
    patLookupIn pat idx s = .ok p t ↔ patType? pat idx = some p ∧ t = s := by
  unfold patLookupIn
  cases patType? pat idx <;> simp [eq_comm]

/-- The PAT lookup of a translation answers the type of the processor's PAT, without change of state (R60, R89). -/
theorem patLookup_eq_ok {idx : BitVec 3} {s t : State} {p : PatType} :
    patLookup idx s = .ok p t ↔ patType? s.cpu.pat idx = some p ∧ t = s :=
  patLookupIn_eq_ok

/-- With no live older value of the PAT an access is made under its translation's type. -/
theorem accessPat_of_none_live {idx : BitVec 3} {p : PatType} {s : State} (h : s.cpu.livePats = []) :
    accessPat idx p s = .ok p s := by
  simp [accessPat, h]

/-- Everything the type of an access can be: its translation's, or that of a live older value of the PAT (R112). -/
theorem accessPat_cases {idx : BitVec 3} {p q : PatType} {s t : State} (h : accessPat idx p s = .ok q t) :
    (q = p ∨ ∃ pat ∈ s.cpu.livePats, patType? pat idx = some q) ∧ (t = s ∨ t = s.drawn) := by
  unfold accessPat at h
  split at h
  · cases h
    exact ⟨.inl rfl, .inl rfl⟩
  · split at h
    · rename_i pat hp
      obtain ⟨h1, h2⟩ := patLookupIn_eq_ok.1 h
      exact ⟨.inr ⟨pat, List.mem_of_getElem? hp, h1⟩, .inr h2⟩
    · cases h
      exact ⟨.inl rfl, .inr rfl⟩

/-- Everything a choice among bytes can answer. -/
theorem oneOf_cases {b c : Byte} {bs : List Byte} {s t : State} (h : oneOf b bs s = .ok c t) :
    c ∈ b :: bs ∧ t = s.drawn := by
  cases h
  have hl : Config.choice s.freeCount % (bs.length + 1) < (b :: bs).length := Nat.mod_lt _ (Nat.succ_pos _)
  rw [List.getD_eq_getElem _ _ hl]
  exact ⟨List.getElem_mem hl, rfl⟩

/-- A byte of memory is read, without change of state, exactly where it has a value. -/
theorem memoryByte_eq_ok {pa : PhysAddr} {s t : State} {b : Byte} :
    memoryByte pa s = .ok b t ↔ s.mem.read pa.toNat = some b ∧ t = s := by
  unfold memoryByte
  cases s.mem.read pa.toNat <;> simp [eq_comm]

/-- An access goes on exactly where memory backs its address. -/
theorem ifMemory_eq_ok {α : Type} {pa : PhysAddr} {s t : State} {k : State → Res α} {a : α} :
    ifMemory pa s k = .ok a t ↔ s.platform.backing? pa.toNat = some .memory ∧ k s = .ok a t := by
  unfold ifMemory
  rcases s.platform.backing? pa.toNat with _ | _ | _ <;> simp

/-- No copy of a byte is one of none. -/
theorem State.copies_eq_nil {s : State} {pa : PhysAddr} (h : ∀ c ∈ s.cpu :: s.others, c.cached? pa = none) :
    s.copies pa = [] :=
  List.filterMap_eq_nil_iff.2 h

/-- Where no other processor holds a copy, none holds a byte that memory has not received. -/
theorem State.pendingElsewhere_eq_nil {s : State} {pa : PhysAddr} (h : ∀ c ∈ s.others, c.cached? pa = none) :
    s.pendingElsewhere pa = [] :=
  List.filterMap_eq_nil_iff.2 fun c hc => by simp [h c hc]

/-- Where no other processor holds a byte that memory has not received, a read is the processor's own. -/
theorem ownOrElsewhere_eq {s : State} {pa : PhysAddr} (h : s.pendingElsewhere pa = []) (own : State → Res Byte) :
    ownOrElsewhere pa s own = own s := by
  simp [ownOrElsewhere, h]

/-- The copy of a byte after it is given another value. -/
@[simp] theorem Cpu.cached?_updateCopy (c : Cpu) (pa : PhysAddr) (v : Byte) (received : Bool) :
    (c.updateCopy pa v received).cached? pa =
      (c.cached? pa).map fun l => { l with byte := v, dirty := l.dirty && !received } := by
  simp only [Cpu.cached?, Cpu.updateCopy]
  induction c.cache with
  | nil => rfl
  | cons l ls ih => by_cases h : l.addr = pa <;> simp [h, ih]

/-- A write that reaches memory changes the processor's own copy, and every other processor's or none. -/
theorem writeToMemory_cases (pa : PhysAddr) (v : Byte) (s : State) :
    writeToMemory pa v s = .ok () (s.setByteAndCopy pa v) ∨
      writeToMemory pa v s = .ok () (s.drawn.setByteAndCopy pa v) ∨
      writeToMemory pa v s = .ok () (s.drawn.setByteAndCopies pa v) := by
  simp only [writeToMemory, freeBool, Res.bind_ok]
  split_ifs
  · exact .inl rfl
  · exact .inr (.inr rfl)
  · exact .inr (.inl rfl)

/-- An undefined write leaves every other byte of memory. -/
theorem State.undefineByte_read_other (s : State) (pa : PhysAddr) {a : Nat} (h : a ≠ pa.toNat) :
    (s.undefineByte pa).mem.read a = s.mem.read a := by
  simp [Memory.read_write, h]

/-- A byte that no cache holds is read from memory, without change of state under a type that is not cacheable
for reads. -/
theorem readByte_uncached {pa : PhysAddr} {t : EffType} {s : State} {b : Byte}
    (hb : s.platform.backing? pa.toNat = some .memory) (hc : ∀ c ∈ s.cpu :: s.others, c.cached? pa = none)
    (ht : t.properties.cacheableReads = false) (hm : s.mem.read pa.toNat = some b) :
    readByte pa t s = .ok b s := by
  have h := State.copies_eq_nil hc
  have hmb : memoryByte pa s = .ok b s := by simp [memoryByte, hm]
  cases t <;> simp_all [readByte, ifMemory, readBacked, readChecked, State.dirtyCopies,
    readUnchecked, EffType.properties, PatType.properties]

/-- A byte that no cache holds is read from memory under a cacheable type, and the read may leave a copy (R62). -/
theorem readByte_uncached_cacheable {pa : PhysAddr} {t : EffType} {s : State} {b : Byte}
    (hb : s.platform.backing? pa.toNat = some .memory) (hc : ∀ c ∈ s.cpu :: s.others, c.cached? pa = none)
    (ht : t.properties.cacheableReads = true) (hm : s.mem.read pa.toNat = some b) :
    readByte pa t s = .ok b s.drawn ∨
      readByte pa t s = .ok b (s.drawn.setLine { addr := pa, byte := b, type := t, dirty := false }) := by
  have h1 := State.pendingElsewhere_eq_nil (s := s) (pa := pa) fun c h => hc c (List.mem_cons_of_mem _ h)
  have h2 := hc s.cpu List.mem_cons_self
  have hmb : memoryByte pa s = .ok b s := by simp [memoryByte, hm]
  have key : readByte pa t s = readCacheable pa t s := by
    cases t <;> simp_all [readByte, ifMemory, readBacked, EffType.properties, PatType.properties]
  rw [key]
  simp only [readCacheable, ownOrElsewhere_eq h1, h2, hmb, Res.bind_ok, keepCopy, freeBool]
  split_ifs
  · exact .inr rfl
  · exact .inl rfl

theorem State.flushCaches_mem_wf (s : State) (h : s.mem.wf = true) : s.flushCaches.mem.wf = true :=
  writeBack_wf _ _ h

theorem State.cacheDrop_mem_wf (s : State) (pa : PhysAddr) (h : s.mem.wf = true) :
    (s.cacheDrop pa).mem.wf = true := by
  unfold State.cacheDrop
  split
  · split
    · exact s.mem.wf_write_phys pa _ h
    · exact h
  · exact h

theorem State.placeByte_mem_wf (s : State) (pa : PhysAddr) (v : Byte) (h : s.mem.wf = true) :
    (s.placeByte pa v).mem.wf = true :=
  s.mem.wf_write_phys pa v h

/-- With paging disabled the translation is the linear address itself (R38). -/
theorem translate_paging_off {access : Access} {la : LinAddr} {s : State} (h : s.cpu.pg = false) :
    translate access la s = .ok { pa := la.setWidth 36, page := none } s := by
  simp [translate, h]

/-- With no cached translation for the page, a translation is a walk (R29, R36). -/
theorem translate_eq_walk {access : Access} {la : LinAddr} {s : State} (h : s.cpu.pg = true)
    (ht : ∀ e ∈ s.cpu.tlb, e.covers la = false) : translate access la s = walk access la s := by
  have : s.cpu.tlb.filter (·.covers la) = [] := by
    simpa [List.filter_eq_nil_iff] using ht
  simp [translate, h, translatePaged, this]

/-- Everything a translation can be (R29, R36, R38). -/
theorem translate_cases (access : Access) (la : LinAddr) (s : State) :
    (s.cpu.pg = false ∧ translate access la s = .ok { pa := la.setWidth 36, page := none } s) ∨
    (s.cpu.pg = true ∧ translate access la s = walk access la s) ∨
    (s.cpu.pg = true ∧ translate access la s = walk access la s.drawn) ∨
    (s.cpu.pg = true ∧ ∃ e ∈ s.cpu.tlb, e.covers la = true ∧ translate access la s = useTlbEntry e la s.drawn) := by
  cases hp : s.cpu.pg with
  | false => exact .inl ⟨rfl, translate_paging_off hp⟩
  | true =>
    refine .inr ?_
    simp only [translate, hp, if_true, translatePaged]
    split_ifs with he
    · exact .inl ⟨trivial, rfl⟩
    · refine .inr ?_
      split
      · rename_i e h
        have hm := List.mem_of_getElem? h
        rw [List.mem_filter] at hm
        exact .inr ⟨trivial, e, hm.1, by simpa using hm.2, rfl⟩
      · exact .inl ⟨trivial, rfl⟩

/-- What a list with new pages holds. -/
theorem mem_withNew {old new : List MappedFrame} {f : MappedFrame} : f ∈ withNew old new ↔ f ∈ old ∨ f ∈ new := by
  unfold withNew
  induction new generalizing old with
  | nil => simp
  | cons g gs ih =>
    rw [List.foldl_cons, ih]
    by_cases h : g ∈ old
    · simp only [List.contains_iff_mem, h, if_true, List.mem_cons]
      exact ⟨fun k => k.imp_right .inr, by rintro (k | rfl | k) <;> simp [*]⟩
    · simp [h, or_left_comm, or_assoc]

/-- A processor notes mappings and changes nothing else; what it has noted stays noted (R115). -/
theorem Cpu.noteCacheable_eq (c : Cpu) (s : State) :
    ∃ fs, c.noteCacheable s = { c with cacheable := fs } ∧ ∀ f ∈ c.cacheable, f ∈ fs := by
  unfold Cpu.noteCacheable
  split
  · exact ⟨_, rfl, fun f h => mem_withNew.2 (.inl h)⟩
  · exact ⟨_, rfl, fun f h => h⟩

/-- The processors after the beginning of a step. -/
theorem State.nextTurn_processors (s : State) :
    s.nextTurn.cpu :: s.nextTurn.others = (s.cpu :: s.others).map fun c => Cpu.noteCacheable c s := rfl

/-- A remapped page that is noted stays noted at the beginning of a step. -/
theorem State.mem_nextTurn_remaps {s : State} {m : MappedFrame} (h : m ∈ s.remaps) : m ∈ s.nextTurn.remaps :=
  mem_withNew.2 (.inl h)

/-- A turn is an instruction or the first pending event. -/
theorem step_eq (s : State) :
    (s.instructionDue = true ∧ step s = runInstr s.nextTurn) ∨
      (s.instructionDue = false ∧ ∃ e rest, s.pending = .event e :: rest ∧
        step s = (applyEvent e s.nextTurn).outcome) := by
  unfold step State.instructionDue
  rcases s.pending with _ | ⟨_ | _, rest⟩ <;> simp

/-- A step at which an instruction is due runs the instruction. -/
theorem step_of_due {s : State} (hd : s.instructionDue = true) : step s = runInstr s.nextTurn := by
  rcases step_eq s with ⟨_, h⟩ | ⟨h, _⟩
  · exact h
  · rw [hd] at h
    cases h

/-- An instruction's step: what was fetched is executed in the state the fetch left. -/
theorem step_of_fetch {s t : State} {i : Instr} (hd : s.instructionDue = true)
    (hf : fetchInstr s.nextTurn = .ok i t) : step s = exec i t := by
  simp [step_of_due hd, runInstr, hf]

/-- A step with an event pending is that event. -/
theorem step_of_event {s : State} {e : Event} {rest : List Turn} (hp : s.pending = .event e :: rest) :
    step s = (applyEvent e s.nextTurn).outcome := by
  simp [step, hp]

/-- A step that answers a next state ran an event or a fetched instruction. -/
theorem step_next_cases {s t : State} (h : step s = .next t) :
    (∃ e rest, s.pending = .event e :: rest ∧ applyEvent e s.nextTurn = .ok () t) ∨
    (s.instructionDue = true ∧ ∃ i u, fetchInstr s.nextTurn = .ok i u ∧ exec i u = .next t) := by
  rcases step_eq s with ⟨hd, hs⟩ | ⟨_, e, rest, hp, hs⟩
  · rw [hs, runInstr] at h
    refine .inr ⟨hd, ?_⟩
    split at h
    · rename_i i u hf
      exact ⟨i, u, hf, h⟩
    · cases h
    · cases h
  · rw [hs] at h
    exact .inl ⟨e, rest, hp, by simpa using h⟩

end Sys2Proof.Machine
end

