-- ==== Sys2Proof/Laws/Frame.lean ====
section
/-! SUPPORT. What an operation leaves unchanged: physical accesses, walks, translations, reads and fetches
change nothing but memory's bytes, the running processor's caches and the count of free values. -/

namespace Sys2Proof.Machine

open Sys2Proof

/-- At most one cached copy of a byte. -/
def Cpu.CacheUnique (c : Cpu) : Prop := (c.cache.map (·.addr)).Nodup

@[simp] theorem Cpu.withoutBytes_updateCopy (c : Cpu) (pa : PhysAddr) (v : Byte) (received : Bool) :
    (c.updateCopy pa v received).withoutBytes = c.withoutBytes := by
  simp only [Cpu.withoutBytes, Cpu.updateCopy, List.map_map]
  congr 1
  refine List.map_congr_left fun l _ => ?_
  simp only [Function.comp]
  split_ifs <;> rfl

theorem Cpu.cacheUnique_updateCopy (c : Cpu) (pa : PhysAddr) (v : Byte) (received : Bool)
    (h : c.CacheUnique) : (c.updateCopy pa v received).CacheUnique := by
  have : (c.updateCopy pa v received).cache.map (·.addr) = c.cache.map (·.addr) := by
    simp only [Cpu.updateCopy, List.map_map]
    refine List.map_congr_left fun l _ => ?_
    simp only [Function.comp]
    split_ifs <;> rfl
  simpa [Cpu.CacheUnique, this] using h

/-- What the cached bytes' values do not decide: soundness of a processor. -/
theorem Cpu.sound_withoutBytes (c : Cpu) : c.withoutBytes.sound = c.sound := by
  simp [Cpu.sound, Cpu.withoutBytes, Cpu.patsInUse, Function.comp_def]

/-- `t` differs from `s` in memory, the running processor's caches, the values and marks of other processors' cached
bytes and the count of free values only, and keeps memory's canonical form and the uniqueness of cached copies. -/
structure Quiet (s t : State) : Prop where
  cpu : t.cpu = { s.cpu with cache := t.cpu.cache }
  others : t.others.map Cpu.withoutBytes = s.others.map Cpu.withoutBytes
  platform : t.platform = s.platform
  remaps : t.remaps = s.remaps
  stored : t.stored = s.stored
  pending : t.pending = s.pending
  readData : t.readData = s.readData
  freeCount : s.freeCount ≤ t.freeCount
  memWf : s.mem.wf = true → t.mem.wf = true
  cacheUnique : s.cpu.CacheUnique → t.cpu.CacheUnique

theorem Quiet.refl (s : State) : Quiet s s :=
  ⟨rfl, rfl, rfl, rfl, rfl, rfl, rfl, le_refl _, id, id⟩

theorem Quiet.trans {s t u : State} (h : Quiet s t) (k : Quiet t u) : Quiet s u where
  cpu := by rw [k.cpu, h.cpu]
  others := k.others.trans h.others
  platform := k.platform.trans h.platform
  remaps := k.remaps.trans h.remaps
  stored := k.stored.trans h.stored
  pending := k.pending.trans h.pending
  readData := k.readData.trans h.readData
  freeCount := h.freeCount.trans k.freeCount
  memWf := k.memWf ∘ h.memWf
  cacheUnique := k.cacheUnique ∘ h.cacheUnique

/-- Registers survive a quiet change. -/
theorem Quiet.sameRegisters {s t : State} (h : Quiet s t) : t.cpu.sameRegisters s.cpu := by
  rw [h.cpu]
  exact ⟨rfl, rfl, rfl, rfl, rfl, rfl, rfl, rfl, rfl, rfl, rfl, rfl, rfl, rfl⟩

theorem Quiet.pat {s t : State} (h : Quiet s t) : t.cpu.pat = s.cpu.pat := by rw [h.cpu]

theorem Quiet.olderPats {s t : State} (h : Quiet s t) : t.cpu.olderPats = s.cpu.olderPats := by rw [h.cpu]

theorem Quiet.tlb {s t : State} (h : Quiet s t) : t.cpu.tlb = s.cpu.tlb := by rw [h.cpu]

theorem Quiet.drawn (s : State) : Quiet s s.drawn :=
  ⟨rfl, rfl, rfl, rfl, rfl, rfl, rfl, Nat.le_succ _, id, id⟩

theorem nodup_filter_addr (ls : List CacheLine) (p : CacheLine → Bool) (h : (ls.map (·.addr)).Nodup) :
    ((ls.filter p).map (·.addr)).Nodup :=
  h.sublist (List.filter_sublist.map _)

theorem Quiet.setLine (s : State) (l : CacheLine) : Quiet s (s.setLine l) where
  cpu := rfl
  others := rfl
  platform := rfl
  remaps := rfl
  stored := rfl
  pending := rfl
  readData := rfl
  freeCount := le_refl _
  memWf := id
  cacheUnique := fun h => by
    refine List.nodup_cons.2 ⟨?_, nodup_filter_addr _ _ h⟩
    simp

theorem Quiet.dropLine (s : State) (pa : PhysAddr) : Quiet s (s.dropLine pa) where
  cpu := rfl
  others := rfl
  platform := rfl
  remaps := rfl
  stored := rfl
  pending := rfl
  readData := rfl
  freeCount := le_refl _
  memWf := id
  cacheUnique := nodup_filter_addr _ _

theorem Quiet.setByte (s : State) (pa : PhysAddr) (v : Byte) : Quiet s (s.setByte pa v) where
  cpu := rfl
  others := rfl
  platform := rfl
  remaps := rfl
  stored := rfl
  pending := rfl
  readData := rfl
  freeCount := le_refl _
  memWf := s.mem.wf_write_phys pa v
  cacheUnique := id

theorem Quiet.setByteAndCopy (s : State) (pa : PhysAddr) (v : Byte) : Quiet s (s.setByteAndCopy pa v) where
  cpu := rfl
  others := rfl
  platform := rfl
  remaps := rfl
  stored := rfl
  pending := rfl
  readData := rfl
  freeCount := le_refl _
  memWf := s.mem.wf_write_phys pa v
  cacheUnique := s.cpu.cacheUnique_updateCopy pa v true

theorem Quiet.setByteAndCopies (s : State) (pa : PhysAddr) (v : Byte) : Quiet s (s.setByteAndCopies pa v) where
  cpu := rfl
  others := by simp [State.setByteAndCopies, Function.comp_def]
  platform := rfl
  remaps := rfl
  stored := rfl
  pending := rfl
  readData := rfl
  freeCount := le_refl _
  memWf := s.mem.wf_write_phys pa v
  cacheUnique := s.cpu.cacheUnique_updateCopy pa v true

theorem Quiet.undefineByte (s : State) (pa : PhysAddr) : Quiet s (s.undefineByte pa) where
  cpu := rfl
  others := by
    refine List.ext_getElem (by simp) fun i h _ => ?_
    simp
  platform := rfl
  remaps := rfl
  stored := rfl
  pending := rfl
  readData := rfl
  freeCount := by
    simp only [State.undefineByte_freeCount]
    omega
  memWf := s.mem.wf_write_phys pa _
  cacheUnique := s.cpu.cacheUnique_updateCopy pa _ false

theorem Quiet.undefineBytes (s : State) (pas : List PhysAddr) : Quiet s (s.undefineBytes pas) := by
  induction pas generalizing s with
  | nil => exact Quiet.refl s
  | cons pa pas ih => exact (Quiet.undefineByte s pa).trans (ih _)

/-- An operation on `s` is framed: where it answers, the change is quiet; where it raises an exception, it is a
page fault, and the state left is what that makes of a quiet change. -/
def Framed {α : Type} (s : State) (r : Res α) : Prop :=
  match r with
  | .ok _ t => Quiet s t
  | .fault (.exception e after) => ∃ ec la t, e = .pageFault ec la ∧ Quiet s t ∧ after = afterException e t
  | .fault (.unbacked _) => True
  | .fault (.unwritten _) => True
  | .refused _ => True

theorem Framed.ok {α : Type} {s t : State} {a : α} (h : Quiet s t) : Framed s (.ok a t) := h

theorem Framed.of_eq_ok {α : Type} {s t : State} {r : Res α} {a : α} (h : Framed s r) (e : r = .ok a t) :
    Quiet s t := by
  subst e
  exact h

theorem Framed.mono {α : Type} {s t : State} {r : Res α} (q : Quiet s t) (h : Framed t r) : Framed s r := by
  rcases r with ⟨a, u⟩ | ⟨_ | _ | _⟩ | _
  · exact q.trans h
  · obtain ⟨ec, la, u, hp, hu, he⟩ := h
    exact ⟨ec, la, u, hp, q.trans hu, he⟩
  · trivial
  · trivial
  · trivial

theorem Framed.bind {α β : Type} {s : State} {r : Res α} {k : α → State → Res β} (h : Framed s r)
    (hk : ∀ a t, Quiet s t → Framed t (k a t)) : Framed s (r.bind k) := by
  rcases r with ⟨a, u⟩ | ⟨_ | _ | _⟩ | _
  · exact (hk a u h).mono h
  · exact h
  · trivial
  · trivial
  · trivial

theorem framed_raisePageFault {α : Type} (p r : Bool) (access : Access) (la : LinAddr) (s : State) :
    Framed s (raisePageFault p r access la s : Res α) :=
  ⟨_, _, s, rfl, Quiet.refl s, rfl⟩

theorem framed_freeByte (s : State) : Framed s (freeByte s) := Quiet.drawn s

theorem framed_freeBool (s : State) : Framed s (freeBool s) := Quiet.drawn s

theorem framed_freeBytes (n : Nat) (s : State) : Framed s (freeBytes n s) := by
  induction n generalizing s with
  | zero => exact Quiet.refl s
  | succ n ih => exact (framed_freeByte s).bind fun _ t _ => (ih t).bind fun _ u _ => Quiet.refl u

theorem framed_effectiveType (pa : PhysAddr) (page : Option PatType) (s : State) :
    Framed s (effectiveType pa page s) := by
  unfold effectiveType
  split
  · exact Quiet.refl s
  · trivial

theorem framed_patLookupIn (pat : QWord) (idx : BitVec 3) (s : State) : Framed s (patLookupIn pat idx s) := by
  unfold patLookupIn
  split
  · exact Quiet.refl s
  · trivial

theorem framed_patLookup (idx : BitVec 3) (s : State) : Framed s (patLookup idx s) :=
  framed_patLookupIn s.cpu.pat idx s

theorem framed_accessPat (idx : BitVec 3) (p : PatType) (s : State) : Framed s (accessPat idx p s) := by
  unfold accessPat
  split
  · exact Quiet.refl s
  · split
    · exact (framed_patLookupIn _ idx s.drawn).mono (Quiet.drawn s)
    · exact Quiet.drawn s

theorem framed_ifMemory {α : Type} (pa : PhysAddr) (s : State) (k : State → Res α) (h : Framed s (k s)) :
    Framed s (ifMemory pa s k) := by
  unfold ifMemory
  split
  · trivial
  · trivial
  · exact h

theorem framed_memoryByte (pa : PhysAddr) (s : State) : Framed s (memoryByte pa s) := by
  unfold memoryByte
  split
  · exact Quiet.refl s
  · trivial

theorem framed_oneOf (b : Byte) (bs : List Byte) (s : State) : Framed s (oneOf b bs s) := Quiet.drawn s

theorem framed_ownOrElsewhere (pa : PhysAddr) (s : State) (own : State → Res Byte)
    (h : ∀ t, Framed t (own t)) : Framed s (ownOrElsewhere pa s own) := by
  unfold ownOrElsewhere
  split
  · exact h s
  · refine (framed_freeBool s).bind fun mine t _ => ?_
    split
    · exact h t
    · exact framed_oneOf _ _ t

theorem framed_copyOrMemory (l : CacheLine) (pa : PhysAddr) (s : State) : Framed s (copyOrMemory l pa s) := by
  refine (framed_freeBool s).bind fun b t _ => ?_
  split
  · exact Quiet.refl t
  · exact framed_memoryByte pa t

theorem framed_keepCopy (l : CacheLine) (s : State) : Framed s (keepCopy l s) := by
  refine (framed_freeBool s).bind fun keep t _ => ?_
  split
  · exact Quiet.setLine t l
  · exact Quiet.refl t

theorem framed_readChecked (pa : PhysAddr) (s : State) : Framed s (readChecked pa s) := by
  unfold readChecked
  split
  · split
    · split
      · exact Quiet.refl s
      · exact framed_copyOrMemory _ pa s
    · exact framed_memoryByte pa s
  · split
    · exact Quiet.refl s
    · exact framed_oneOf _ _ s

theorem framed_readUnchecked (pa : PhysAddr) (s : State) : Framed s (readUnchecked pa s) := by
  unfold readUnchecked
  split
  · exact framed_memoryByte pa s
  · refine framed_ownOrElsewhere pa s _ fun t => (framed_freeBool t).bind fun check u _ => ?_
    split
    · exact framed_readChecked pa u
    · exact framed_memoryByte pa u

theorem framed_readCacheable (pa : PhysAddr) (ty : EffType) (s : State) : Framed s (readCacheable pa ty s) := by
  refine framed_ownOrElsewhere pa s _ fun t => ?_
  split
  · split
    · exact Quiet.refl t
    · exact framed_copyOrMemory _ pa t
  · exact (framed_memoryByte pa t).bind fun b u _ => (framed_keepCopy _ u).bind fun _ w _ => Quiet.refl w

theorem framed_readByte (pa : PhysAddr) (ty : EffType) (s : State) : Framed s (readByte pa ty s) := by
  refine framed_ifMemory pa s _ ?_
  cases ty with
  | ucPage => exact framed_readChecked pa s
  | ucMtrr => exact framed_readUnchecked pa s
  | uc => exact framed_readUnchecked pa s
  | wc =>
    simp only [readBacked]
    split
    · exact framed_memoryByte pa s
    · exact framed_freeByte s
  | wt => exact framed_readCacheable pa _ s
  | wp => exact framed_readCacheable pa _ s
  | wb => exact framed_readCacheable pa _ s

theorem framed_physRead (pa : PhysAddr) (n : Nat) (ty : EffType) (s : State) :
    Framed s (physRead pa n ty s) := by
  induction n generalizing pa s with
  | zero => exact Quiet.refl s
  | succ n ih =>
    exact (framed_readByte pa ty s).bind fun _ t _ => (ih _ t).bind fun _ u _ => Quiet.refl u

theorem framed_writeUnchecked (pa : PhysAddr) (v : Byte) (s : State) : Framed s (writeUnchecked pa v s) := by
  unfold writeUnchecked
  split
  · exact Quiet.setByte s pa v
  · refine (framed_freeBool s).bind fun check t _ => ?_
    split
    · exact Quiet.setByteAndCopies t pa v
    · exact Quiet.setByte t pa v

theorem framed_writeToMemory (pa : PhysAddr) (v : Byte) (s : State) : Framed s (writeToMemory pa v s) := by
  rcases writeToMemory_cases pa v s with h | h | h <;> rw [h]
  · exact Quiet.setByteAndCopy s pa v
  · exact (Quiet.drawn s).trans (Quiet.setByteAndCopy _ pa v)
  · exact (Quiet.drawn s).trans (Quiet.setByteAndCopies _ pa v)

theorem framed_writeByte (pa : PhysAddr) (ty : EffType) (v : Byte) (s : State) :
    Framed s (writeByte pa ty v s) := by
  refine framed_ifMemory pa s _ ?_
  cases ty with
  | wb =>
    simp only [writeBacked]
    split
    · exact Quiet.setLine s _
    · refine (framed_freeBool s).bind fun b t _ => ?_
      split
      · exact Quiet.setLine t _
      · exact framed_writeToMemory pa v t
  | wt =>
    refine (framed_writeToMemory pa v s).bind fun _ t _ => ?_
    split
    · exact Quiet.refl t
    · exact framed_keepCopy _ t
  | wp => exact (framed_writeToMemory pa v s).bind fun _ t _ => Quiet.dropLine t pa
  | ucPage => exact Quiet.setByteAndCopies s pa v
  | ucMtrr => exact framed_writeUnchecked pa v s
  | uc => exact framed_writeUnchecked pa v s
  | wc =>
    simp only [writeBacked]
    split
    · exact Quiet.setByte s pa v
    · exact Quiet.undefineByte s pa

theorem framed_physWrite (pa : PhysAddr) (ty : EffType) (vs : List Byte) (s : State) :
    Framed s (physWrite pa ty vs s) := by
  induction vs generalizing pa s with
  | nil => exact Quiet.refl s
  | cons v vs ih => exact (framed_writeByte pa ty v s).bind fun _ t _ => ih _ t

theorem framed_structType (pa : PhysAddr) (idx : BitVec 3) (s : State) : Framed s (structType pa idx s) :=
  (framed_patLookup idx s).bind fun p t _ =>
    (framed_accessPat idx p t).bind fun q u _ => framed_effectiveType pa (some q) u

theorem framed_readStruct (pa : PhysAddr) (n : Nat) (idx : BitVec 3) (s : State) :
    Framed s (readStruct pa n idx s) := by
  refine (framed_structType pa idx s).bind fun ty t _ => (framed_physRead pa n ty t).bind fun _ u _ => ?_
  split
  · exact framed_freeBytes n u
  · exact Quiet.refl u

theorem framed_writeStruct (pa : PhysAddr) (idx : BitVec 3) (v : Byte) (s : State) :
    Framed s (writeStruct pa idx v s) := by
  refine (framed_structType pa idx s).bind fun ty t _ => (framed_writeByte pa ty v t).bind fun _ u _ => ?_
  split
  · exact Quiet.undefineByte u pa
  · exact Quiet.refl u

theorem framed_readEntry4 (pa : PhysAddr) (idx : BitVec 3) (s : State) : Framed s (readEntry4 pa idx s) :=
  (framed_readStruct pa 4 idx s).bind fun _ u _ => Quiet.refl u

theorem framed_readEntry8 (pa : PhysAddr) (idx : BitVec 3) (s : State) : Framed s (readEntry8 pa idx s) :=
  (framed_readStruct pa 8 idx s).bind fun _ u _ => Quiet.refl u

theorem framed_accessedDirtyUpdate (e : EntryRef) (access : Access) (done : Bool) (s : State) :
    Framed s (accessedDirtyUpdate e access done s) := by
  simp only [accessedDirtyUpdate]
  split
  · exact Quiet.refl s
  · exact framed_writeStruct _ _ _ s

theorem framed_accessedDirtyUpdates (es : List EntryRef) (access : Access) (done : Bool) (s : State) :
    Framed s (accessedDirtyUpdates es access done s) := by
  induction es generalizing s with
  | nil => exact Quiet.refl s
  | cons e es ih => exact (framed_accessedDirtyUpdate e access done s).bind fun _ t _ => ih t

theorem framed_failWalk {α : Type} (above : List EntryRef) (p r : Bool) (access : Access) (la : LinAddr)
    (s : State) : Framed s (failWalk above p r access la s : Res α) :=
  (framed_accessedDirtyUpdates above access false s).bind fun _ t _ => framed_raisePageFault p r access la t

theorem framed_finishWalk (es : List EntryRef) (size : PageSize) (pa : PhysAddr) (idx : BitVec 3)
    (access : Access) (s : State) : Framed s (finishWalk es size pa idx access s) :=
  (framed_accessedDirtyUpdates es access true s).bind fun _ t _ =>
    (framed_patLookup idx t).bind fun _ u _ => Quiet.refl u

theorem framed_checkEntry {α : Type} (above : List EntryRef) (e : EntryRef) (r : Bool) (access : Access)
    (la : LinAddr) (s : State) (k : State → Res α) (h : Framed s (k s)) :
    Framed s (checkEntry above e r access la s k) := by
  unfold checkEntry
  split
  · exact framed_failWalk above false false access la s
  · split
    · exact framed_failWalk above true true access la s
    · split
      · exact framed_failWalk above true false access la s
      · exact h

theorem framed_walk4M (pde : EntryRef) (access : Access) (la : LinAddr) (s : State) :
    Framed s (walk4M pde access la s) :=
  framed_checkEntry _ _ _ _ _ _ _ (framed_finishWalk _ _ _ _ _ s)

theorem framed_walk4K (pde : EntryRef) (access : Access) (la : LinAddr) (s : State) :
    Framed s (walk4K pde access la s) :=
  framed_checkEntry _ _ _ _ _ _ _ <| (framed_readEntry4 _ _ s).bind fun _ t _ =>
    framed_checkEntry _ _ _ _ _ _ _ (framed_finishWalk _ _ _ _ _ t)

theorem framed_walkPaePte (pdpte pde : EntryRef) (access : Access) (la : LinAddr) (s : State) :
    Framed s (walkPaePte pdpte pde access la s) :=
  (framed_readEntry8 _ _ s).bind fun _ t _ =>
    framed_checkEntry _ _ _ _ _ _ _ (framed_finishWalk _ _ _ _ _ t)

theorem framed_walkPaePde (pdpte : EntryRef) (access : Access) (la : LinAddr) (s : State) :
    Framed s (walkPaePde pdpte access la s) := by
  refine (framed_readEntry8 _ _ s).bind fun v t _ => framed_checkEntry _ _ _ _ _ _ _ ?_
  split
  · exact framed_finishWalk _ _ _ _ _ t
  · exact framed_walkPaePte _ _ _ _ t

theorem framed_walk (access : Access) (la : LinAddr) (s : State) : Framed s (walk access la s) := by
  unfold walk
  split
  · exact (framed_readEntry8 _ _ s).bind fun _ t _ =>
      framed_checkEntry _ _ _ _ _ _ _ (framed_walkPaePde _ _ _ t)
  · refine (framed_readEntry4 _ _ s).bind fun v t _ => ?_
    split
    · exact framed_walk4M _ _ _ t
    · exact framed_walk4K _ _ _ t

theorem framed_useTlbEntry (e : TlbEntry) (la : LinAddr) (s : State) : Framed s (useTlbEntry e la s) := by
  unfold useTlbEntry
  refine (framed_freeBool s).bind fun old t _ => ?_
  split
  · exact Quiet.refl t
  · exact (framed_patLookup _ t).bind fun _ u _ => Quiet.refl u

theorem framed_accessPage (page : Option PageView) (s : State) : Framed s (accessPage page s) := by
  unfold accessPage
  split
  · exact Quiet.refl s
  · exact (framed_accessPat _ _ s).bind fun _ t _ => Quiet.refl t

/-- A translation leaves the registers, the TLB and everything but memory, caches and free values (R36). -/
theorem framed_translate (access : Access) (la : LinAddr) (s : State) : Framed s (translate access la s) := by
  rcases translate_cases access la s with ⟨_, h⟩ | ⟨_, h⟩ | ⟨_, h⟩ | ⟨_, e, _, _, h⟩ <;> rw [h]
  · exact Quiet.refl s
  · exact framed_walk access la s
  · exact (framed_walk access la s.drawn).mono (Quiet.drawn s)
  · exact (framed_useTlbEntry e la s.drawn).mono (Quiet.drawn s)

theorem framed_accessParts (access : Access) (fuel : Nat) (la : LinAddr) (n : Nat) (s : State) :
    Framed s (accessParts access fuel la n s) := by
  induction fuel generalizing la n s with
  | zero => exact Quiet.refl s
  | succ fuel ih =>
    simp only [accessParts]
    split
    · exact Quiet.refl s
    · exact (framed_translate access la s).bind fun tr t _ =>
        (framed_accessPage tr.page t).bind fun _ u _ =>
          (framed_effectiveType _ _ u).bind fun _ w _ => (ih _ _ w).bind fun _ x _ => Quiet.refl x

theorem framed_readPart (p : Part) (s : State) : Framed s (readPart p s) := by
  refine (framed_physRead _ _ _ s).bind fun bs t _ => ?_
  split
  · exact framed_freeBytes _ t
  · exact Quiet.refl t

theorem framed_readParts (ps : List Part) (s : State) : Framed s (readParts ps s) := by
  induction ps generalizing s with
  | nil => exact Quiet.refl s
  | cons p ps ih =>
    exact (framed_readPart p s).bind fun _ t _ => (ih t).bind fun _ u _ => Quiet.refl u

theorem framed_ifTypesAgree {α : Type} (as : List PhysAddr) (s : State) (k : State → Res α) (h : Framed s (k s)) :
    Framed s (ifTypesAgree as s k) := by
  unfold ifTypesAgree
  split
  · trivial
  · exact h

theorem framed_memRead (la : LinAddr) (n : Nat) (s : State) : Framed s (memRead la n s) :=
  (framed_accessParts .read n la n s).bind fun ps t _ => framed_ifTypesAgree _ t _ (framed_readParts ps t)

theorem framed_fetchParts (s : State) : Framed s (fetchParts s) := by
  unfold fetchParts
  split
  · trivial
  · exact framed_accessParts _ _ _ _ s

/-- The fetch of the instruction bytes leaves everything but memory, caches and free values (R78). -/
theorem framed_fetchBytes (s : State) : Framed s (fetchBytes s) := by
  refine (framed_fetchParts s).bind fun ps t _ => ?_
  split
  · trivial
  · exact framed_readParts ps t

/-- The fetch of an instruction leaves everything but memory, caches and free values (R78). -/
theorem framed_fetchInstr (s : State) : Framed s (fetchInstr s) := by
  refine (framed_fetchBytes s).bind fun bs t _ => ?_
  split
  · exact Quiet.refl t
  · trivial

end Sys2Proof.Machine
end

