-- ==== Sys2Proof/Laws/PerInstr.lean ====
section
/-! SUPPORT. Statements about every instruction as syntax, one lemma per constructor. -/

namespace Sys2Proof.Laws

open Sys2Proof

/-- Every instruction is two bytes, the first `0FH`, and well-formed (spec/30_encoding.md R80, R82). -/
def EncodingShape.Statement (i : Instr) : Prop :=
  (encode i).length = instrLength ∧ (encode i).head? = some 0x0F#8 ∧ i.wf = true

theorem EncodingShape.cpuid : EncodingShape.Statement .cpuid := ⟨rfl, rfl, rfl⟩

theorem EncodingShape.rdmsr : EncodingShape.Statement .rdmsr := ⟨rfl, rfl, rfl⟩

theorem EncodingShape.wrmsr : EncodingShape.Statement .wrmsr := ⟨rfl, rfl, rfl⟩

end Sys2Proof.Laws
end

