-- ==== Sys2Proof/Tests/Slice0.lean ====
section
/-! SUPPORT. Tests, each with its source in the spec, and for every statement with hypotheses a concrete case
that meets them together. -/

namespace Sys2Proof.Tests

open Sys2Proof Sys2Proof.Machine

/-! Well-formedness and decoding -/

/-- R82: no operand can be out of range, so no ill-formed instruction exists for a check to refuse. -/
theorem test_every_instruction_is_wf : ∀ i : Instr, i.wf = true := by
  intro i
  cases i <;> rfl

/-- R81, written out bit by bit from the encoding column: 0000 1111 1010 0010. -/
theorem test_decode_cpuid : decode [0b00001111#8, 0b10100010#8] = .ok (.cpuid, []) := by decide

/-- R81: 0000 1111 0011 0010. -/
theorem test_decode_rdmsr : decode [0b00001111#8, 0b00110010#8] = .ok (.rdmsr, []) := by decide

/-- R81: 0000 1111 0011 0000. -/
theorem test_decode_wrmsr : decode [0b00001111#8, 0b00110000#8] = .ok (.wrmsr, []) := by decide

/-- R79: a further byte before the instruction is refused by name. -/
theorem test_decode_refuses_leading_byte :
    decode [0x66#8, 0x0F#8, 0xA2#8] = .error (.notInAnySource 0x66#8 0x0F#8) := by decide

/-- Each clause of the statement: an encoding with a byte after it, one byte too few, a refused pair. -/
theorem test_hyps_DecodeAdmitsExactlyTheEncodings :
    (Instr.wrmsr.wf = true ∧ [0x0F#8, 0x30#8, 0xFF#8] = encode .wrmsr ++ [0xFF#8]) ∧
      (∀ i rest, [0x0F#8] ≠ encode i ++ rest) ∧ ∀ i rest, [0x0F#8, 0xA3#8] ≠ encode i ++ rest := by
  refine ⟨by decide, ?_, ?_⟩ <;> intro i rest <;> cases i <;> simp [encode]

/-- R81: the table's numbers. -/
theorem test_table_words :
    [decodeTableWord 16 0x0FA2, decodeTableWord 16 0x0F32, decodeTableWord 16 0x0F30, decodeTableWord 16 0xA20F]
      = [some .cpuid, some .rdmsr, some .wrmsr, none] := by decide

/-! The three instructions (95_test_vectors) -/

/-- A state at ring 0 with these registers and PAT, paging disabled. -/
def regs (eax ecx edx : Word) (cpl : BitVec 2) (pat : QWord) : State :=
  { State.reset with cpu := { Cpu.reset with
      eax := eax, ecx := ecx, edx := edx, pc := 0x1000#32, cpl := cpl, pat := pat } }

/-- The registers and PAT of an outcome's next state. -/
def view (o : Host.Outcome State Fault Refusal) : Option (Word × Word × Word × QWord × Word) :=
  match o with
  | .next t => some (t.cpu.eax, t.cpu.ecx, t.cpu.edx, t.cpu.pat, t.cpu.pc)
  | .fault _ => none
  | .refused _ => none

/-- V91. -/
theorem test_rdmsr_v91 :
    view (exec .rdmsr (regs 0#32 0x277#32 0#32 0#2 0x0007050100070406#64)) =
      some (0x00070406#32, 0x277#32, 0x00070501#32, 0x0007050100070406#64, 0x1002#32) := by decide

/-- V97: all 32 bits of ECX are the address. -/
theorem test_rdmsr_v97 :
    exec .rdmsr (regs 0#32 0x10277#32 0#32 0#2 patReset) = .refused (.msrNotInSource 0x10277#32) := rfl

/-- V98. -/
theorem test_wrmsr_v98 :
    view (exec .wrmsr (regs 0x00070406#32 0x277#32 0x00070501#32 0#2 patReset)) =
      some (0x00070406#32, 0x277#32, 0x00070501#32, 0x0007050100070406#64, 0x1002#32) := by decide

/-- V101 to V103 are legal, V104 to V113 are not. -/
theorem test_wrmsr_values :
    [0x0707070707070707#64, 0x0606060606060606#64, 0x0107040600070406#64].all patValueLegal = true ∧
      [0x0007040600070206#64, 0x0007040600070306#64, 0x0007040600070806#64, 0x0007040600070E06#64,
        0x0007040600075706#64, 0x0007040600070486#64, 0x0807040600070406#64, 0xFFFFFFFFFFFFFFFF#64,
        0x0101010101010201#64, 0x0000000000000010#64].any patValueLegal = false := by decide

/-- V85, V88: at CPL 3. -/
theorem test_cpuid_v85 :
    (match exec .cpuid (regs 1#32 0#32 0#32 3#2 patReset) with
      | .next t => decide (t.cpu.pc = 0x1002#32 ∧ t.cpu.cpl = 3#2)
      | .fault _ => false
      | .refused _ => false) = true := rfl

/-! Translation (95_test_vectors, S1) -/

/-- V12: the four bytes of a directory entry. -/
theorem test_le32_v12 : le32 [0x83#8, 0xE0#8, 0x41#8, 0x00#8] = 0x0041E083#32 := by decide

/-- V9 to V11. -/
theorem test_pde_address :
    [pdeAddress 0x00123000#32 0x00C12345#32, pdeAddress 0x00123018#32 0xFFFFFFFF#32,
      pdeAddress 0xFFFFF000#32 0xFFC00000#32] = [0x00012300C#36, 0x000123FFC#36, 0x0FFFFFFFC#36] := by decide

/-- V14, V16 to V19, V21. -/
theorem test_address4M :
    [address4M 0x0041E083#32 0x00C12345#32, address4M 0xFFC1E083#32 0xFFFFFFFF#32,
      address4M 0x00002083#32 0#32, address4M 0x00010083#32 0x12345678#32, address4M 0x8001109B#32 0x7FFFFFFF#32,
      address4M 0x0041F083#32 0x00C12345#32] =
    [0xF00412345#36, 0xFFFFFFFFF#36, 0x100000000#36, 0x800345678#36, 0x8803FFFFF#36, 0xF00412345#36] := by decide

/-- V22 to V25, V28; V29 to V32. -/
theorem test_reserved_bits :
    [0x00420083#32, 0x004E0083#32, 0x003FE083#32, 0x00200083#32, 0x0041F083#32].map reserved4M =
        [true, true, true, true, false] ∧
      [0x00200083#64, 0x00201083#64, 0x00202083#64, 0x00300083#64].map reserved2M =
        [false, false, true, true] := by decide

/-- V39, V40, V43; V46, V47; V48. -/
theorem test_indices :
    [0x0040009B#64, 0x00401083#64, 0x0040109B#64].map largeIndex = [3#3, 4#3, 7#3] ∧
      [0x0789A09B#64, 0x0789B003#64].map pteIndex = [7#3, 0#3] ∧ structIndex 0x0045601B#64 = 3#3 := by decide

/-- V58, V59, V52. -/
theorem test_pat_lookup :
    [patType? 0x0007050100070406#64 4#3, patType? 0x0007050100070406#64 5#3, patType? patReset 2#3] =
      [some .wc, some .wp, some .ucMinus] := by decide

/-- Four bytes at an address. -/
def word (a : Nat) (v : Word) : Memory :=
  [(a, v.extractLsb' 0 8), (a + 1, v.extractLsb' 8 8), (a + 2, v.extractLsb' 16 8), (a + 3, v.extractLsb' 24 8)]

/-- Eight bytes at an address. -/
def quad (a : Nat) (v : QWord) : Memory := word a (v.extractLsb' 0 32) ++ word (a + 4) (v.extractLsb' 32 32)

/-- What PermCheck says of the entries named, a directory entry with bit 7 set mapping a large page. -/
def permits (access : Access) (la : LinAddr) (es : List (Level × QWord)) (answer : Bool := true) :
    List (PermKey × Bool) :=
  es.map fun (l, e) =>
    ({ level := l, entry := withoutPatIndex l (pdePs e) e, la := la, access := access, cpl := 0#2 }, answer)

/-- AccessedDirtyUpdate leaves the accessed and dirty bits the entries named have. -/
def keepsBits (access : Access) (done : Bool) (es : List (Level × QWord)) : List (AdKey × AdBits) :=
  es.map fun (l, e) =>
    ({ level := l, entry := e, access := access, completed := done },
     { accessed := e.getLsbD 5, dirty := e.getLsbD 6 })

/-- The tables of S1 with its CR3, paging on, CR4.PSE as given, the MTRRs disabled, PermCheck passing and
AccessedDirtyUpdate writing nothing for the entries that are walked. -/
def s1 (pse : Bool) (la : LinAddr) : State :=
  let es : List (Level × QWord) :=
    [(.pde, 0x00000083#64), (.pde, 0x00456003#64), (.pde, 0x0041E083#64), (.pte, 0x0789A09B#64)]
  { State.reset with
    cpu := { Cpu.reset with
      cr0 := 0x80000000#32, cr3 := 0x00123000#32, cr4 := if pse then 0x10#32 else 0#32 }
    mem := word 0x123000 0x00000083#32 ++ word 0x123004 0x00456003#32 ++ word 0x12300C 0x0041E083#32 ++
      word 0x123010 0x00420083#32 ++ word 0x123014 0#32 ++ word 0x456048 0x0789A09B#32 ++ word 0x45604C 0#32
    platform := { Platform.reset with
      permCheck := permits .read la es
      accessedDirty := keepsBits .read true es ++ keepsBits .read false es } }

/-- The translation's address and index, or the error code of its page fault. -/
def translated (la : LinAddr) (s : State) : Option (PhysAddr × Option (BitVec 3) ⊕ Word) :=
  match translate .read la s with
  | .ok tr _ => some (.inl (tr.pa, tr.page.map (·.idx)))
  | .fault (.exception (.pageFault ec _) _) => some (.inr ec)
  | .fault _ => none
  | .refused _ => none

/-- S1, row 0x00C12345: a 4 MB page above 4 GB. -/
theorem test_s1_large_page :
    translated 0x00C12345#32 (s1 true 0x00C12345#32) = some (.inl (0xF00412345#36, some 0#3)) := by decide +kernel

/-- S1, row 0x00412ABC: through the page table. -/
theorem test_s1_small_page :
    translated 0x00412ABC#32 (s1 true 0x00412ABC#32) = some (.inl (0x00789AABC#36, some 7#3)) := by decide +kernel

/-- S1, rows 0x01000000 and 0x01400000: a reserved bit, and not present. -/
theorem test_s1_faults :
    translated 0x01000000#32 (s1 true 0x01000000#32) = some (.inr 9#32) ∧
      translated 0x01400000#32 (s1 true 0x01400000#32) = some (.inr 0#32) := by decide +kernel

/-- R114: the physical page of one 4 MB page mapped at a second linear address with another type, the MTRRs
giving WB, is aliased; without the second mapping it is not. -/
theorem test_aliasing :
    let c : Cpu := { Cpu.reset with
      cr0 := 0x80000000#32, cr3 := 0x00123000#32, cr4 := 0x10#32, mtrrDefType := 0x800#64
      mtrrs := [{ first := 0#36, last := 0xFFFFFFFFF#36, type := .wb }] }
    let one : State := { State.reset with cpu := c, mem := word 0x123000 0x00800083#32 }
    let two : State := { one with mem := word 0x123000 0x00800083#32 ++ word 0x123004 0x0080009B#32 }
    undefinedAt one none 0x800345#36 = false ∧ undefinedAt two none 0x800345#36 = true := by
  decide +kernel

/-- R112: WRMSR keeps the value it replaced until both flushes have occurred. P3: it is live, for accesses to be made
under, if a translation is held in the TLB, and not if the TLB and the caches are empty. -/
theorem test_older_pat :
    let s := regs 0x00070406#32 0x277#32 0x00070501#32 0#2 patReset
    let e : TlbEntry := { page := 0#32, size := .k4, base := 0#36, idx := 4#3, pat := .wb }
    let held (s : State) :=
      match exec .wrmsr s with
      | .next t =>
        [t.cpu.livePats, t.flushTlb.cpu.patsInUse, t.flushCaches.cpu.patsInUse, t.flushTlb.flushCaches.cpu.patsInUse]
      | .fault _ => []
      | .refused _ => []
    let both : List QWord := [0x0007050100070406#64, patReset]
    held s = [[], both, both, [0x0007050100070406#64]] ∧
      held { s with cpu := { s.cpu with tlb := [e] } } = [[patReset], both, both, [0x0007050100070406#64]] := by
  decide +kernel

/-- R115, R74: a WC write to a byte that a cache holds and memory has not received leaves memory and the copy with
free values, and the copy waits to be written back as before. -/
theorem test_wc_write_frees_cached_copy :
    let l : CacheLine := { addr := 0x2000#36, byte := 7#8, type := .wb, dirty := true }
    let s : State := { State.reset with cpu := { Cpu.reset with cache := [l] } }
    writeByte 0x2000#36 .wc 9#8 s =
      .ok () { s with
        cpu := { s.cpu with cache := [{ l with byte := Config.freeByte 1 }] }
        mem := [(0x2000, Config.freeByte 0)], freeCount := 2 } := rfl

/-- R68: a write under UC_PAGE updates another processor's copy too; a read under it gives that copy, which memory
has not received. -/
theorem test_uc_page_checks_all_caches :
    let c : Cpu := { Cpu.reset with cache := [{ addr := 0x2000#36, byte := 7#8, type := .wb, dirty := true }] }
    let s : State := { State.reset with others := [c] }
    readByte 0x2000#36 .ucPage s = .ok 7#8 s ∧
      (match writeByte 0x2000#36 .ucPage 9#8 s with
        | .ok _ u => decide (u.others.map (·.cache.map (·.byte)) = [[9#8]] ∧ u.mem.read 0x2000 = some 9#8)
        | .fault _ => false
        | .refused _ => false) = true := by decide +kernel

/-- R74, D27: after a WP write that another processor's clean copy did not see, a UC_PAGE read gives the byte
written; a write that reaches memory leaves such a copy or changes it. -/
theorem test_own_write_past_other_copy :
    let l : CacheLine := { addr := 0x2000#36, byte := 7#8, type := .wb, dirty := false }
    let s : State := { State.reset with others := [{ Cpu.reset with cache := [l] }], mem := [(0x2000, 7#8)] }
    readByte 0x2000#36 .ucPage s = .ok 7#8 s ∧
      readByte 0x2000#36 .ucPage { s with mem := [(0x2000, 9#8)] } = .ok 9#8 { s with mem := [(0x2000, 9#8)] } ∧
      ((s.setByteAndCopy 0x2000#36 9#8).others.map (·.cache.map (·.byte)) = [[7#8]]) ∧
      ((s.setByteAndCopies 0x2000#36 9#8).others.map (·.cache.map (·.byte)) = [[9#8]]) := by decide +kernel

/-- R74, D27: where another processor held a byte that memory had not received, a write of 1 that changes every copy
and then one of 2 that reaches memory alone leave nothing from which the writer could read 1. -/
theorem test_no_older_byte_of_its_own :
    let l : CacheLine := { addr := 0x2000#36, byte := 7#8, type := .wb, dirty := true }
    let s : State := { State.reset with others := [{ Cpu.reset with cache := [l] }] }
    let u := (s.setByteAndCopies 0x2000#36 1#8).setByteAndCopy 0x2000#36 2#8
    u.pendingElsewhere 0x2000#36 = [] ∧ u.dirtyCopies 0x2000#36 = [] ∧
      readByte 0x2000#36 .ucPage u = .ok 2#8 u := by decide +kernel

/-! Witnesses: each meets the hypotheses of the statement it names, together -/

theorem test_hyps_CpuidCompletesWithFeatureBits :
    (regs 1#32 0#32 0#32 3#2 patReset).cpu.eax = 1#32 ∧ (regs 2#32 0#32 0#32 0#2 patReset).cpu.eax ≠ 1#32 := by
  decide

theorem test_hyps_RdmsrReturnsPat :
    let s := regs 0#32 0x277#32 0#32 0#2 patReset
    s.cpu.cpl = 0#2 ∧ s.cpu.ecx = 0x277#32 ∧ patValueLegal s.cpu.pat = true := by decide

theorem test_hyps_WrmsrWritesLegalPat :
    let s := regs 0x00070406#32 0x277#32 0x00070501#32 0#2 patReset
    let t := regs 0x00070406#32 0x277#32 0x00070406#32 0#2 patReset
    s.cpu.cpl = 0#2 ∧ s.cpu.ecx = 0x277#32 ∧ s.cpu.pat ≠ s.cpu.edx ++ s.cpu.eax ∧
      t.cpu.pat = t.cpu.edx ++ t.cpu.eax ∧
      ∀ i < 8, (s.cpu.edx ++ s.cpu.eax : QWord).extractLsb' (8 * i) 8 ∈ [0#8, 1#8, 4#8, 5#8, 6#8, 7#8] := by decide

theorem test_hyps_WrmsrBadFieldWritesNothing :
    let s := regs 0x01010201#32 0x277#32 0x01010101#32 0#2 patReset
    let t := regs 0x01010101#32 0x277#32 0xFF010101#32 0#2 patReset
    s.cpu.cpl = 0#2 ∧ s.cpu.ecx = 0x277#32 ∧
      (s.cpu.edx ++ s.cpu.eax : QWord).extractLsb' (8 * 1) 8 ∉ [0#8, 1#8, 4#8, 5#8, 6#8, 7#8] ∧
      (t.cpu.edx ++ t.cpu.eax : QWord).extractLsb' (8 * 7) 8 ∉ [0#8, 1#8, 4#8, 5#8, 6#8, 7#8] := by decide

theorem test_hyps_MsrAccessStops :
    (regs 0#32 0x277#32 0#32 3#2 patReset).cpu.cpl ≠ 0#2 ∧ (regs 0#32 0x278#32 0#32 0#2 patReset).cpu.cpl = 0#2 ∧
      (regs 0#32 0x278#32 0#32 0#2 patReset).cpu.ecx ≠ 0x277#32 := by decide

theorem test_hyps_MsrReadWriteRoundTrips :
    let s := regs 0x00070406#32 0x277#32 0x00070501#32 0#2 patReset
    s.cpu.cpl = 0#2 ∧ s.cpu.ecx = 0x277#32 ∧ patValueLegal s.cpu.pat = true ∧
      patValueLegal (s.cpu.edx ++ s.cpu.eax) = true := by decide

theorem test_hyps_InstructionFrame :
    let s := regs 0x00070406#32 0x277#32 0x00070501#32 0#2 patReset
    [Instr.cpuid, .rdmsr, .wrmsr].all (fun i =>
      match exec i s with
      | .next _ => true
      | .fault _ => false
      | .refused _ => false) = true := by decide

/-- A processor that replaced the reset PAT while translations were held and has flushed its TLB only. -/
def olderPatCpu : Cpu :=
  { Cpu.reset with
    pat := 0x0007050100070406#64
    olderPats := [{ pat := patReset, live := true, tlbFlushed := true, cachesFlushed := false }] }

theorem test_hyps_LegalPatLookupIsTotal :
    patValueLegal olderPatCpu.pat = true ∧
      (∀ o ∈ olderPatCpu.olderPats, o.live = true ∧ patValueLegal o.pat = true) ∧
      ∀ o ∈ Cpu.reset.olderPats, o.live = false := by decide

theorem test_hyps_EffectiveTypeByCacheFlags :
    let c (cr0 : Word) (m : MtrrType) : Cpu :=
      { Cpu.reset with mtrrDefType := 0x800#64, cr0 := cr0, mtrrs := [{ first := 0#36, last := 0xFFF#36, type := m }] }
    Cpu.reset.mtrrDefType.getLsbD 11 = false ∧ (c 0#32 .uc).mtrrDefType.getLsbD 11 = true ∧
      (c 0x60000000#32 .uc).cr0.getLsbD 30 = true ∧
      (c 0x20000000#32 .uc).cr0.getLsbD 30 = false ∧ (c 0x20000000#32 .uc).cr0.getLsbD 29 = true ∧
      (c 0#32 .uc).cr0.getLsbD 30 = false ∧ (c 0#32 .uc).cr0.getLsbD 29 = false ∧
      ∀ m ∈ [MtrrType.uc, .wc, .wt, .wp, .wb], mtrrTypeAt (c 0#32 m) 0xFFF#36 = m := by decide

theorem test_hyps_ZeroPa2TranslatesAsBefore : (0x00400083#32).extractLsb' 13 4 = 0#4 := by decide

theorem test_hyps_EveryLargePageHasAnEntry :
    (0xF00400000#36).toNat % 2 ^ 22 = 0 ∧ (0xFFFC00000#36).toNat % 2 ^ 22 = 0 := by decide

theorem test_hyps_PatBitIsNotReserved :
    (0x00000083#64).getLsbD 7 = true ∧ (s1 true 0#32).cpu.pse = true := by decide

theorem test_hyps_ReservedBitOf4MPdeFaults :
    let s := s1 true 0x01000000#32
    s.cpu.pg = true ∧ s.cpu.pae = false ∧ s.cpu.pse = true ∧ s.cpu.tlb = [] ∧
      readEntry4 (pdeAddress s.cpu.cr3 0x01000000#32) (cr3Index s.cpu) s = .ok 0x00420083#64 s ∧
      (0x00420083#64).getLsbD 0 = true ∧ (0x00420083#64).getLsbD 7 = true ∧
      (0x00420083#64).extractLsb' 17 5 ≠ 0#5 := by decide +kernel

/-- Paging with PAE through the entries `d`, `v` and `x`, at addresses that the platform names: PermCheck passes
and AccessedDirtyUpdate writes nothing for them, and none breaks an open reserved bit. -/
def pae (la : LinAddr) (d v x : QWord) : State :=
  let es : List (Level × QWord) := [(.pdpte, d), (.pde, v), (.pte, x)]
  { State.reset with
    cpu := { Cpu.reset with cr0 := 0x80000000#32, cr3 := 0x1000#32, cr4 := 0x20#32 }
    mem := quad 0x1000 d ++ quad 0x2000 v ++ quad 0x3000 x
    platform := { Platform.reset with
      permCheck := permits .read la es
      accessedDirty := keepsBits .read true es ++ keepsBits .read false es
      paeAddress := [(.pdpteAt 0x1000#32 la, 0x1000#36), (.pdeAt d la, 0x2000#36), (.pteAt v la, 0x3000#36)]
      paeReserved := es.map fun (l, e) => ({ level := l, entry := withoutPatIndex l (pdePs e) e }, false) } }

/-- V31: bit 13 of a 2 MB entry. -/
theorem test_hyps_ReservedBitOf2MPdeFaults :
    let s := pae 0#32 0x2001#64 0x00202083#64 0#64
    s.cpu.pg = true ∧ s.cpu.pae = true ∧ s.cpu.tlb = [] ∧
      readEntry8 (paeAddress s (.pdpteAt s.cpu.cr3 0#32)) (cr3Index s.cpu) s = .ok 0x2001#64 s ∧
      (0x2001#64).getLsbD 0 = true ∧ paeReserved s .pdpte 0x2001#64 = false ∧
      permitted s .pdpte 0x2001#64 0#32 .read = true ∧
      readEntry8 (paeAddress s (.pdeAt 0x2001#64 0#32)) (structIndex 0x2001#64) s = .ok 0x00202083#64 s ∧
      (0x00202083#64).getLsbD 0 = true ∧ (0x00202083#64).getLsbD 7 = true ∧
      (0x00202083#64).extractLsb' 13 8 ≠ 0#8 ∧
      accessedDirtyUpdates
        [{ level := .pdpte, value := 0x2001#64, addr := paeAddress s (.pdpteAt s.cpu.cr3 0#32),
           idx := cr3Index s.cpu }] .read false s = .ok () s := by decide +kernel

/-- A directory entry and a page-table entry with P = 0, and under PAE an entry of each of the three levels. -/
theorem test_hyps_NotPresentPdeFaults :
    (let s := s1 true 0x01400000#32
     s.cpu.pg = true ∧ s.cpu.pae = false ∧ s.cpu.tlb = [] ∧
       readEntry4 (pdeAddress s.cpu.cr3 0x01400000#32) (cr3Index s.cpu) s = .ok 0#64 s ∧
       (0#64).getLsbD 0 = false) ∧
    (let s := s1 true 0x00413000#32
     let v := 0x00456003#64
     s.cpu.pg = true ∧ s.cpu.pae = false ∧ (s.cpu.pse && v.getLsbD 7) = false ∧ s.cpu.tlb = [] ∧
       readEntry4 (pdeAddress s.cpu.cr3 0x00413000#32) (cr3Index s.cpu) s = .ok v s ∧
       v.getLsbD 0 = true ∧ permitted s .pde v 0x00413000#32 .read = true ∧
       readEntry4 (pteAddress (v.setWidth 32) 0x00413000#32) (structIndex v) s = .ok 0#64 s ∧
       accessedDirtyUpdates
         [{ level := .pde, value := v, addr := pdeAddress s.cpu.cr3 0x00413000#32, idx := cr3Index s.cpu }]
         .read false s = .ok () s) ∧
    (let s := pae 0#32 0x2000#64 0#64 0#64
     s.cpu.pg = true ∧ s.cpu.pae = true ∧ s.cpu.tlb = [] ∧
       readEntry8 (paeAddress s (.pdpteAt s.cpu.cr3 0#32)) (cr3Index s.cpu) s = .ok 0x2000#64 s ∧
       (0x2000#64).getLsbD 0 = false) ∧
    (let d := 0x2001#64
     let s := pae 0#32 d 0x80#64 0#64
     s.throughPdpte .read 0#32 d s ∧
       readEntry8 (paeAddress s (.pdeAt d 0#32)) (structIndex d) s = .ok 0x80#64 s ∧ (0x80#64).getLsbD 0 = false ∧
       accessedDirtyUpdates [s.pdpteRef 0#32 d] .read false s = .ok () s) ∧
    (let d := 0x2001#64
     let v := 0x3001#64
     let s := pae 0#32 d v 0xFE#64
     s.throughPdpte .read 0#32 d s ∧ s.throughPde .read 0#32 d v s s ∧
       readEntry8 (paeAddress s (.pteAt v 0#32)) (structIndex v) s = .ok 0xFE#64 s ∧ (0xFE#64).getLsbD 0 = false ∧
       accessedDirtyUpdates [s.pdpteRef 0#32 d, s.pdeRef 0#32 d v] .read false s = .ok () s) := by
  simp only [State.throughPdpte, State.throughPde]
  decide +kernel

theorem test_hyps_LargePageTranslates :
    let s := s1 true 0x00C12345#32
    let v := 0x0041E083#64
    s.cpu.pg = true ∧ s.cpu.pae = false ∧ s.cpu.pse = true ∧ s.cpu.tlb = [] ∧
      readEntry4 (pdeAddress s.cpu.cr3 0x00C12345#32) (cr3Index s.cpu) s = .ok v s ∧
      v.getLsbD 0 = true ∧ v.getLsbD 7 = true ∧ v.extractLsb' 17 5 = 0#5 ∧
      permitted s .pde v 0x00C12345#32 .read = true ∧
      accessedDirtyUpdate
        { level := .pde, value := v, addr := pdeAddress s.cpu.cr3 0x00C12345#32, idx := cr3Index s.cpu }
        .read true s = .ok () s ∧
      patType? s.cpu.pat (patIndex (v.getLsbD 12) (v.getLsbD 4) (v.getLsbD 3)) = some .wb ∧
      s.plainStructures ∧ patValueLegal s.cpu.pat = true ∧
      s.holdsAt 0x12300C#36 0x83#8 ∧ s.holdsAt (0x12300C#36 + 1#36) 0xE0#8 ∧ s.holdsAt (0x12300C#36 + 2#36) 0x41#8 ∧
      s.holdsAt (0x12300C#36 + 3#36) 0x00#8 ∧ s.holdsAt (0x12300C#36 + 4#36) 0x83#8 ∧
      s.holdsAt (0x12300C#36 + 5#36) 0x00#8 ∧ s.holdsAt (0x12300C#36 + 6#36) 0x42#8 ∧
      s.holdsAt (0x12300C#36 + 7#36) 0x00#8 := by
  simp only [State.plainStructures, State.holdsAt]
  decide +kernel

theorem test_hyps_SmallPageTranslates :
    let s := s1 true 0x00412ABC#32
    let v := 0x00456003#64
    let x := 0x0789A09B#64
    s.cpu.pg = true ∧ s.cpu.pae = false ∧ (s.cpu.pse && v.getLsbD 7) = false ∧ s.cpu.tlb = [] ∧
      readEntry4 (pdeAddress s.cpu.cr3 0x00412ABC#32) (cr3Index s.cpu) s = .ok v s ∧
      v.getLsbD 0 = true ∧ permitted s .pde v 0x00412ABC#32 .read = true ∧
      readEntry4 (pteAddress (v.setWidth 32) 0x00412ABC#32) (structIndex v) s = .ok x s ∧
      x.getLsbD 0 = true ∧ permitted s .pte x 0x00412ABC#32 .read = true ∧
      accessedDirtyUpdates
        [{ level := .pde, value := v, addr := pdeAddress s.cpu.cr3 0x00412ABC#32, idx := cr3Index s.cpu },
         { level := .pte, value := x, addr := pteAddress (v.setWidth 32) 0x00412ABC#32, idx := structIndex v }]
        .read true s = .ok () s ∧
      patType? s.cpu.pat (patIndex (x.getLsbD 7) (x.getLsbD 4) (x.getLsbD 3)) = some .uc := by decide +kernel

/-- PermCheck does not permit a read of `la` through this entry; else it answers as in `s`. -/
def denies (l : Level) (s : State) (la : LinAddr) (e : QWord) : State :=
  { s with platform := { s.platform with
      permCheck := permits .read la [(l, e)] false ++ s.platform.permCheck } }

/-- A directory entry and a page-table entry that do not permit the access, and under PAE an entry of each level. -/
theorem test_hyps_DeniedPdeFaults :
    (let s : State := { s1 true 0#32 with platform := { Platform.reset with
       permCheck := permits .read 0#32 [(.pde, 0x00000083#64)] false } }
     s.cpu.pg = true ∧ s.cpu.pae = false ∧ s.cpu.tlb = [] ∧
       readEntry4 (pdeAddress s.cpu.cr3 0#32) (cr3Index s.cpu) s = .ok 0x00000083#64 s ∧
       (0x00000083#64).getLsbD 0 = true ∧ (0x00000083#64).extractLsb' 17 5 = 0#5 ∧
       permitted s .pde 0x00000083#64 0#32 .read = false) ∧
    (let v := 0x00456003#64
     let x := 0x0789A09B#64
     let s : State := { s1 true 0#32 with platform := { Platform.reset with
       permCheck := permits .read 0x00412ABC#32 [(.pde, v)] ++ permits .read 0x00412ABC#32 [(.pte, x)] false
       accessedDirty := keepsBits .read false [(.pde, v)] } }
     s.cpu.pg = true ∧ s.cpu.pae = false ∧ (s.cpu.pse && v.getLsbD 7) = false ∧ s.cpu.tlb = [] ∧
       readEntry4 (pdeAddress s.cpu.cr3 0x00412ABC#32) (cr3Index s.cpu) s = .ok v s ∧
       v.getLsbD 0 = true ∧ permitted s .pde v 0x00412ABC#32 .read = true ∧
       readEntry4 (pteAddress (v.setWidth 32) 0x00412ABC#32) (structIndex v) s = .ok x s ∧
       x.getLsbD 0 = true ∧ permitted s .pte x 0x00412ABC#32 .read = false ∧
       accessedDirtyUpdates
         [{ level := .pde, value := v, addr := pdeAddress s.cpu.cr3 0x00412ABC#32, idx := cr3Index s.cpu }]
         .read false s = .ok () s) ∧
    (let d := 0x2001#64
     let s := denies .pdpte (pae 0#32 d 0x00200083#64 0#64) 0#32 d
     s.cpu.pg = true ∧ s.cpu.pae = true ∧ s.cpu.tlb = [] ∧
       readEntry8 (paeAddress s (.pdpteAt s.cpu.cr3 0#32)) (cr3Index s.cpu) s = .ok d s ∧ d.getLsbD 0 = true ∧
       paeReserved s .pdpte d = false ∧ permitted s .pdpte d 0#32 .read = false) ∧
    (let d := 0x2001#64
     let v := 0x00200083#64
     let s := denies .pde (pae 0#32 d v 0#64) 0#32 v
     s.throughPdpte .read 0#32 d s ∧ readEntry8 (paeAddress s (.pdeAt d 0#32)) (structIndex d) s = .ok v s ∧
       v.getLsbD 0 = true ∧ v.getLsbD 7 = true ∧ v.extractLsb' 13 8 = 0#8 ∧ paeReserved s .pde v = false ∧
       permitted s .pde v 0#32 .read = false ∧
       accessedDirtyUpdates [s.pdpteRef 0#32 d] .read false s = .ok () s) ∧
    (let d := 0x2001#64
     let v := 0x3001#64
     let e := 0x0789A099#64
     let s := denies .pte (pae 0#32 d v e) 0#32 e
     s.throughPdpte .read 0#32 d s ∧ s.throughPde .read 0#32 d v s s ∧
       readEntry8 (paeAddress s (.pteAt v 0#32)) (structIndex v) s = .ok e s ∧ e.getLsbD 0 = true ∧
       paeReserved s .pte e = false ∧ permitted s .pte e 0#32 .read = false ∧
       accessedDirtyUpdates [s.pdpteRef 0#32 d, s.pdeRef 0#32 d v] .read false s = .ok () s) := by
  simp only [State.throughPdpte, State.throughPde]
  decide +kernel

/-- V30: the PAT bit set, bits 20:13 zero. -/
theorem test_hyps_PaeLargePageTranslates :
    let v := 0x00201083#64
    let d := 0x2001#64
    let s := pae 0#32 d v 0#64
    s.cpu.pg = true ∧ s.cpu.pae = true ∧ s.cpu.tlb = [] ∧
      readEntry8 (paeAddress s (.pdpteAt s.cpu.cr3 0#32)) (cr3Index s.cpu) s = .ok d s ∧
      d.getLsbD 0 = true ∧ paeReserved s .pdpte d = false ∧ permitted s .pdpte d 0#32 .read = true ∧
      readEntry8 (paeAddress s (.pdeAt d 0#32)) (structIndex d) s = .ok v s ∧
      v.getLsbD 0 = true ∧ v.getLsbD 7 = true ∧ v.extractLsb' 13 8 = 0#8 ∧
      paeReserved s .pde (v &&& ~~~0x1000#64) = false ∧
      permitted s .pde (v &&& ~~~0x1000#64) 0#32 .read = true ∧
      accessedDirtyUpdates
        [{ level := .pdpte, value := d, addr := paeAddress s (.pdpteAt s.cpu.cr3 0#32), idx := cr3Index s.cpu },
         { level := .pde, value := v, addr := paeAddress s (.pdeAt d 0#32), idx := structIndex d }]
        .read true s = .ok () s ∧
      patType? s.cpu.pat (patIndex (v.getLsbD 12) (v.getLsbD 4) (v.getLsbD 3)) = some .wb := by decide +kernel

/-- The PAT bit of the page-table entry set. -/
theorem test_hyps_PaeSmallPageTranslates :
    let x := 0x0789A099#64
    let v := 0x3001#64
    let d := 0x2001#64
    let s := pae 0x123#32 d v x
    s.cpu.pg = true ∧ s.cpu.pae = true ∧ s.cpu.tlb = [] ∧
      readEntry8 (paeAddress s (.pdpteAt s.cpu.cr3 0x123#32)) (cr3Index s.cpu) s = .ok d s ∧
      d.getLsbD 0 = true ∧ paeReserved s .pdpte d = false ∧ permitted s .pdpte d 0x123#32 .read = true ∧
      readEntry8 (paeAddress s (.pdeAt d 0x123#32)) (structIndex d) s = .ok v s ∧ v.getLsbD 0 = true ∧
      v.getLsbD 7 = false ∧ paeReserved s .pde v = false ∧ permitted s .pde v 0x123#32 .read = true ∧
      readEntry8 (paeAddress s (.pteAt v 0x123#32)) (structIndex v) s = .ok x s ∧ x.getLsbD 0 = true ∧
      paeReserved s .pte (x &&& ~~~0x80#64) = false ∧
      permitted s .pte (x &&& ~~~0x80#64) 0x123#32 .read = true ∧
      accessedDirtyUpdates
        [{ level := .pdpte, value := d, addr := paeAddress s (.pdpteAt s.cpu.cr3 0x123#32), idx := cr3Index s.cpu },
         { level := .pde, value := v, addr := paeAddress s (.pdeAt d 0x123#32), idx := structIndex d },
         { level := .pte, value := x, addr := paeAddress s (.pteAt v 0x123#32), idx := structIndex v }]
        .read true s = .ok () s ∧
      patType? s.cpu.pat (patIndex (x.getLsbD 7) (x.getLsbD 4) (x.getLsbD 3)) = some .uc := by decide +kernel

theorem test_hyps_WalkFollowsPagingModeTable :
    let s := s1 true 0x00C12345#32
    s.cpu.pg = true ∧ s.cpu.pae = false ∧ s.cpu.tlb = [] ∧
      readEntry4 (pdeAddress s.cpu.cr3 0x00C12345#32) (cr3Index s.cpu) s = .ok 0x0041E083#64 s ∧
      (translated 0x00C12345#32 s).isSome = true := by decide +kernel

theorem test_hyps_FlushTlbForcesWalk :
    (s1 true 0#32).cpu.pg = true ∧ applyEvent .flushTlb (s1 true 0#32) = .ok () (s1 true 0#32) ∧
      (∃ t u, applyEvent .flushTlb { State.reset with cpu := olderPatCpu } = .ok () t ∧
        applyEvent .flushCaches t = .ok () u) ∧
      ∃ t u, applyEvent .flushCaches { State.reset with cpu := olderPatCpu } = .ok () t ∧
        applyEvent .flushTlb t = .ok () u :=
  ⟨by decide, by decide +kernel, ⟨_, _, rfl, rfl⟩, _, _, rfl, rfl⟩

theorem test_hyps_CachedTranslationHasOldOrNewType : patValueLegal olderPatCpu.pat = true := by decide

theorem test_hyps_TlbFillCachesTheWalk :
    let s := s1 true 0x00C12345#32
    s.cpu.pg = true ∧ walk .read 0x00C12345#32 s =
      .ok { pa := 0xF00412345#36, page := some { size := .m4, idx := 0#3, pat := .wb } } s := by decide +kernel

/-- A cached byte that memory has not received. -/
def dirtyState : State :=
  { State.reset with
    cpu := { Cpu.reset with cache := [{ addr := 0x2000#36, byte := 7#8, type := .wb, dirty := true }] }
    mem := word 0x2000 0#32 }

/-- A dirty own copy; no copy; another processor's dirty copy, and its clean one; a clean own copy. -/
theorem test_hyps_OwnWriteIsSeen :
    let l : CacheLine := { addr := 0x2000#36, byte := 7#8, type := .wb, dirty := true }
    let c (d : Bool) : Cpu := { Cpu.reset with id := 1, cache := [{ l with dirty := d }] }
    (∃ u, writeByte 0x2000#36 .wb 9#8 { dirtyState with others := [c false] } = .ok () u) ∧
      dirtyState.cpu.cached? 0x2000#36 = some l ∧ dirtyState.platform.backing? (0x2000#36).toNat = some .memory ∧
      (∃ u, writeByte 0x2000#36 .wc 9#8 State.reset = .ok () u) ∧ State.reset.cpu.cached? 0x2000#36 = none ∧
      (c true).cached? 0x2000#36 = some l ∧ (c false).cached? 0x2000#36 = some { l with dirty := false } ∧
      ({ State.reset with mem := [(0x2000, 9#8)] } : State).mem.read 0x2000 = some 9#8 := by
  refine ⟨⟨_, rfl⟩, by decide, by decide, ⟨_, rfl⟩, by decide, by decide, by decide, by decide⟩

theorem test_hyps_PhysAccessFrame :
    (∃ u, physWrite 0x2000#36 .uc [1#8, 2#8] State.reset = .ok () u) ∧
      (∀ i < 2, 5 ≠ (0x2000#36 + BitVec.ofNat 36 i).toNat) ∧
      ∃ u, physRead 0x2000#36 1 .wb { State.reset with mem := [(0x2000, 7#8)] } = .ok [7#8] u :=
  ⟨⟨_, rfl⟩, by decide, _, rfl⟩

theorem test_hyps_FlushesAndDropsWriteBack :
    dirtyState.cpu.sound = true ∧ (∃ l ∈ dirtyState.cpu.cache, l.dirty = true ∧
      dirtyState.cpu.cached? l.addr = some l) := by decide

theorem test_hyps_CacheFillRespectsType :
    ({ addr := 0x2000#36, byte := 0#8, type := .wt, dirty := false } : CacheLine) ∈
      (({ State.reset with mem := word 0x2000 0#32 } : State).fillByte 0x2000#36 .wt).cpu.cache := by decide +kernel

theorem test_hyps_UnbackedAccessStops :
    ({ Platform.reset with physMap := [] } : Platform).backing? 0x2000 = none := by decide

/-- Paging with 4 MB pages and the MTRRs giving WB everywhere; the page directory is accessed as UC. `pdes` are
entries 0 and 1 of the directory, and memory has a word at 0x800344. -/
def typed (pat pde0 pde1 : QWord) (cache : List CacheLine) : State :=
  { State.reset with
    cpu := { Cpu.reset with
      cr0 := 0x80000000#32, cr3 := 0x00123018#32, cr4 := 0x10#32, mtrrDefType := 0x800#64, pat := pat
      mtrrs := [{ first := 0#36, last := 0xFFFFFFFFF#36, type := .wb }], cache := cache }
    mem := word 0x123000 (pde0.setWidth 32) ++ word 0x123004 (pde1.setWidth 32) ++ word 0x800344 0#32
    platform := { Platform.reset with
      permCheck := permits .read 0x00400344#32 [(.pde, pde1)]
      accessedDirty := keepsBits .read true [(.pde, pde1)] } }

/-- The clauses on any type of the structure: with the MTRRs enabled the directory is accessed as UC_PAGE. -/
theorem test_hyps_LargePageTranslates_types :
    let s := typed patReset 0#64 0x00800083#64 []
    structType 0x123000#36 3#3 s = .ok .ucPage s ∧ undefinedStruct s 0x123000#36 4 .ucPage = false ∧
      undefinedStruct s 0x123000#36 8 .ucPage = false ∧
      [0x00#8, 0x00#8, 0x00#8, 0x00#8, 0x83#8, 0x00#8, 0x80#8, 0x00#8].zipIdx.all (fun (b, i) =>
        decide (s.mem.read (0x123000#36 + BitVec.ofNat 36 i : PhysAddr).toNat = some b ∧
          s.platform.backing? (0x123000#36 + BitVec.ofNat 36 i : PhysAddr).toNat = some .memory ∧
          ∀ c ∈ s.cpu :: s.others, c.cached? (0x123000#36 + BitVec.ofNat 36 i) = none)) = true := by
  decide +kernel

/-- Through a 4 MB entry, with the MTRRs enabled. -/
theorem test_hyps_PagedAccessLooksUpPat :
    let s := typed patReset 0#64 0x00800083#64 []
    s.cpu.pg = true ∧ s.cpu.mtrrEnabled = true ∧ s.cpu.cd = false ∧ s.cpu.nw = false ∧
      translate .read 0x00400344#32 s =
        .ok { pa := 0x800344#36, page := some { size := .m4, idx := 0#3, pat := .wb } } s ∧
      s.cpu.olderPats = [] ∧
      accessParts .read 4 0x00400344#32 4 s =
        .ok [{ la := 0x00400344#32, pa := 0x800344#36, type := .wb, size := 4, undef := false }] s := by
  decide +kernel

/-- One physical page mapped as WB and as UC; a WC page with a byte in the caches. -/
theorem test_hyps_AliasedAccessIsFree :
    (let s := typed patReset 0x00800083#64 0x0080009B#64 []
     let tr : Translation := { pa := 0x800344#36, page := some { size := .m4, idx := 3#3, pat := .uc } }
     let m : Mapping := { page := 0#32, size := .m4, base := 0x800000#36, idx := 0#3, pat := some .wb }
     let k : Mapping := { page := 0x400000#32, size := .m4, base := 0x800000#36, idx := 3#3, pat := some .uc }
     translate .read 0x00400344#32 s = .ok tr s ∧ accessPage tr.page s = .ok tr.page s ∧ bytesInPage tr 0x00400344#32 4 = 4 ∧
       effectiveType tr.pa (tr.page.map (·.pat)) s = .ok .ucPage s ∧
       physRead tr.pa 4 .ucPage s = .ok [0#8, 0#8, 0#8, 0#8] s ∧ s.others = [] ∧ m ∈ liveMappings s s.cpu ∧
       k ∈ liveMappings s s.cpu ∧ m.reaches tr.pa = true ∧ k.reaches tr.pa = true ∧
       effectiveType? s.cpu tr.pa (some .wb) ≠ effectiveType? s.cpu tr.pa (some .uc) ∧ m.same k = false) ∧
    (let l : CacheLine := { addr := 0x800000#36, byte := 7#8, type := .wb, dirty := true }
     let s := typed 0x0007050100070406#64 0#64 0x00801083#64 [l]
     let tr : Translation := { pa := 0x800344#36, page := some { size := .m4, idx := 4#3, pat := .wc } }
     translate .read 0x00400344#32 s = .ok tr s ∧ accessPage tr.page s = .ok tr.page s ∧
       effectiveType tr.pa (tr.page.map (·.pat)) s = .ok .wc s ∧
       physRead tr.pa 4 .wc s = .ok [0#8, 0#8, 0#8, 0#8] s ∧ s.others = [] ∧
       l.addr.toNat / 2 ^ pageBits .m4 = tr.pa.toNat / 2 ^ pageBits .m4) := by decide +kernel

/-- A processor with paging disabled and the MTRRs giving WB, whose TLB still maps the 4 MB page at 0x800000 as WC
while a byte of the page is cached: between steps 3 and 4 of R115. -/
def remapped : State :=
  let s := typed 0x0007050100070406#64 0#64 0#64
    [{ addr := 0x800000#36, byte := 7#8, type := .wb, dirty := false }]
  { s with cpu := { s.cpu with
      cr0 := 0#32, tlb := [{ page := 0x400000#32, size := .m4, base := 0x800000#36, idx := 4#3, pat := .wc }] } }

/-- R115, U5: a WB access to such a page with paging disabled is undefined, and an access to a structure in it. -/
theorem test_hyps_AliasedAccessIsFree_remapped :
    let s := remapped
    let tr : Translation := { pa := 0x800344#36, page := none }
    let m : Mapping := { page := 0x400000#32, size := .m4, base := 0x800000#36, idx := 4#3, pat := some .wc }
    bytesInPage tr 0x00800344#32 1 = 1 ∧ translate .read 0x00800344#32 s = .ok tr s ∧
      accessPage tr.page s = .ok none s ∧ effectiveType tr.pa none s = .ok .wb s ∧
      (∃ u, physRead tr.pa 1 .wb s = .ok [0#8] u) ∧ s.others = [] ∧ m ∈ liveMappings s s.cpu ∧
      m.reaches 0x800344#36 = true ∧ effectiveType? s.cpu 0x800344#36 (some .wc) = some .wc ∧
      (0x800000#36).toNat / 2 ^ pageBits .m4 = (0x800344#36).toNat / 2 ^ pageBits .m4 ∧
      undefinedAccess s 0x00800344#32 0x800344#36 1 none .wb = true ∧
      undefinedStruct s 0x800344#36 4 .ucPage = true := by
  and_intros <;> first | exact ⟨_, rfl⟩ | decide +kernel

/-- S4 after step 3: the 4 MB page at 0x800000 was used as WB (index 0) and is mapped as WC (index 4). -/
def betweenSteps : State :=
  let s := typed 0x0007050100070406#64 0#64 0x00801083#64 []
  { s with cpu := { s.cpu with cacheable := [{ size := .m4, base := 0x800000#36, idx := 0#3, pat := .wb }] } }

/-- R115: with the WB mapping in the tables the page is noted; with the WC mapping in its place the remapping is, with
paging disabled too, and with a mapping of the same index it is not. -/
theorem test_hyps_RemapIsNotedUntilFlush :
    let w : MappedFrame := { size := .m4, base := 0x800000#36, idx := 4#3, pat := .wc }
    let m : Mapping := { page := 0x400000#32, size := .m4, base := 0x800000#36, idx := 4#3, pat := some .wc }
    let before := typed 0x0007050100070406#64 0#64 0x00800083#64 []
    let off (s : State) : State := { s with cpu := { s.cpu with cr0 := 0#32 } }
    before.nextTurn.cpu.cacheable = betweenSteps.cpu.cacheable ∧ before.nextTurn.remaps = [] ∧
      m ∈ tlbMappings betweenSteps.cpu ++ tableEntries betweenSteps betweenSteps.cpu ∧
      betweenSteps.cpu.mtrrEnabled = true ∧ betweenSteps.cpu.cd = false ∧
      betweenSteps.nextTurn.remaps = [w] ∧ (off betweenSteps).nextTurn.remaps = [w] ∧
      (match step { betweenSteps with pending := [.event (.setCr0 0#32)] } with
        | .next t => decide (t = { off betweenSteps with remaps := [w] })
        | .fault _ => false
        | .refused _ => false) = true := by
  decide +kernel

/-- S4: with paging disabled, empty TLB and empty caches an access between steps 3 and 4 is undefined, and after step 4
it is not; while another processor has not flushed its caches it still is, and a flush before step 3 is not step 4. -/
theorem test_undefined_until_step_4 :
    let w : MappedFrame := { size := .m4, base := 0x800000#36, idx := 4#3, pat := .wc }
    let s : State := { betweenSteps with cpu := { betweenSteps.cpu with cr0 := 0#32 }, remaps := [w] }
    let two : State := { s with others := [s.cpu] }
    s.cpu.tlb = [] ∧ s.cpu.cache = [] ∧ undefinedAt s none 0x800344#36 = true ∧
      undefinedAt s none 0xC00000#36 = false ∧ undefinedAt s.flushCaches none 0x800344#36 = false ∧
      undefinedAt two.flushCaches none 0x800344#36 = true ∧
      betweenSteps.flushCaches.nextTurn.remaps = [w] := by decide +kernel

/-- A store of one byte to such a page, with paging disabled. -/
theorem test_hyps_AliasedAccessIsFree_store :
    let w : MappedFrame := { size := .m4, base := 0x800000#36, idx := 4#3, pat := .wc }
    let s : State := { betweenSteps with cpu := { betweenSteps.cpu with cr0 := 0#32 }, remaps := [w] }
    let tr : Translation := { pa := 0x800344#36, page := none }
    bytesInPage tr 0x00800344#32 [7#8].length = [7#8].length ∧ translate .write 0x00800344#32 s = .ok tr s ∧
      accessPage tr.page s = .ok none s ∧ effectiveType tr.pa none s = .ok .wb s ∧ s.others = [] ∧
      undefinedAccess s 0x00800344#32 tr.pa [7#8].length none .wb = true ∧
      s.platform.backing? (tr.pa + BitVec.ofNat 36 0).toNat = some .memory := by decide +kernel

/-- Two neighbouring 4 MB pages that lie apart in physical memory, the MTRRs disabled; an instruction at the start of
the first. -/
def twoPages (access : Access) (la : LinAddr) : State :=
  let es : List (Level × QWord) := [(.pde, 0x00800083#64), (.pde, 0x00002083#64)]
  { State.reset with
    cpu := { Cpu.reset with cr0 := 0x80000000#32, cr3 := 0x00123000#32, cr4 := 0x10#32, pc := la }
    mem := word 0x123000 0x00800083#32 ++ word 0x123004 0x00002083#32 ++ word 0x800000 0x0000320F#32 ++
      word 0xBFFFFC 0xAA000000#32 ++ word 0x100000000 0x000000BB#32
    platform := { Platform.reset with
      permCheck := permits access la es ++ permits access 0x00400000#32 es
      accessedDirty := keepsBits access true es } }

/-- R71: a load and a store of two bytes at the end of the first page; a load and a fetch within it. -/
theorem test_hyps_AccessMovesTranslatedBytes :
    let s := twoPages .read 0x003FFFFF#32
    let w := twoPages .write 0x003FFFFF#32
    let f := twoPages .fetch 0#32
    let v : PageView := { size := .m4, idx := 0#3, pat := .wb }
    let tr (pa : PhysAddr) : Translation := { pa := pa, page := some v }
    let p : Part := { la := 0x003FFFFF#32, pa := 0xBFFFFF#36, type := .uc, size := 1, undef := false }
    let q : Part := { la := 0x00400000#32, pa := 0x100000000#36, type := .uc, size := 1, undef := false }
    bytesInPage (tr p.pa) p.la 2 = 1 ∧ bytesInPage (tr q.pa) q.la 1 = 1 ∧ bytesInPage (tr p.pa) p.la 1 = 1 ∧
      translate .read p.la s = .ok (tr p.pa) s ∧ translate .read q.la s = .ok (tr q.pa) s ∧
      translate .write p.la w = .ok (tr p.pa) w ∧ translate .fetch 0#32 f = .ok (tr 0x800000#36) f ∧
      accessPage (some v) s = .ok (some v) s ∧ effectiveType p.pa (some .wb) s = .ok .uc s ∧
      undefinedAccess s p.la p.pa 1 (some v) .uc = false ∧
      accessParts .read 2 p.la 2 s = .ok [p, q] s ∧ memRead p.la 2 s = .ok [0xAA#8, 0xBB#8] s ∧
      physRead p.pa 1 .uc s = .ok [0xAA#8] s ∧ accessParts .write 2 p.la 2 w = .ok [p, q] w ∧
      (∃ u, memWrite p.la [1#8, 2#8] w = .ok () u ∧ u.mem.read 0xBFFFFF = some 1#8 ∧
        u.mem.read 0x100000000 = some 2#8 ∧ u.stored = [0x100000000, 0xBFFFFF]) ∧
      fetchBytes f = .ok [0x0F#8, 0x32#8] f := by
  and_intros <;> first | decide +kernel | exact ⟨_, rfl, by and_intros <;> decide +kernel⟩

theorem test_hyps_StoreThenLoadReturnsBytes :
    let s := State.reset
    s.cpu.pg = false ∧ s.cpu.mtrrEnabled = false ∧ s.others = [] ∧ s.remaps = [] ∧ (∀ c ∈ s.cpu :: s.others, c.cache = []) ∧
      (0xFFFFFFFE#32).toNat + [1#8, 2#8].length ≤ 2 ^ 32 ∧
      ∀ i < [1#8, 2#8].length, s.platform.backing? ((0xFFFFFFFE#32).toNat + i) = some .memory := by decide

theorem test_hyps_LargePageMappingIsLive :
    let s := s1 true 0#32
    s.cpu.pg = true ∧ s.cpu.pae = false ∧ s.cpu.pse = true ∧
      (s.tableView s.cpu).read4 (pdeAddress s.cpu.cr3 0x00C12345#32).toNat = some 0x0041E083#32 ∧
      (0x0041E083#32).getLsbD 0 = true ∧ (0x0041E083#32).getLsbD 7 = true ∧
      (0x0041E083#32).extractLsb' 17 5 = 0#5 := by decide +kernel

/-- R114: a read at the end of a 4 MB page's first 4 KB frame is not undefined, and one that runs into the next
frame, which a 4 KB mapping gives another type, is. -/
theorem test_every_byte_is_judged :
    let e : TlbEntry := { page := 0x7000#32, size := .k4, base := 0x801000#36, idx := 3#3, pat := .uc }
    let s := typed patReset 0#64 0x00800083#64 []
    let t : State := { s with cpu := { s.cpu with tlb := [e] } }
    let page : PageView := { size := .m4, idx := 0#3, pat := .wb }
    undefinedAccess t 0x00400FFC#32 0x800FFC#36 4 (some page) .wb = false ∧
      undefinedAccess t 0x00400FFE#32 0x800FFE#36 4 (some page) .wb = true := by decide +kernel

/-- S5: the other processor has another PAT, and the access reaches a byte where it matters; two processors with the
same values. -/
theorem test_hyps_DifferingTypesRefuseDataAccess :
    let p : Part := { la := 0x1000#32, pa := 0x1000#36, type := .uc, size := 1, undef := false }
    let s : State := { State.reset with others := [{ Cpu.reset with id := 1, pat := 0x0007050100070406#64 }] }
    accessParts .read 1 0x1000#32 1 s = .ok [p] s ∧
      accessParts .write [7#8].length 0x1000#32 [7#8].length s = .ok [p] s ∧
      0x1000#36 ∈ p.physAddrs ∧ (∃ c ∈ s.others, s.cpu.typesDifferAt c 0x1000#36 = true) ∧
      memRead 0x1000#32 1 s = .refused (.memoryTypesDiffer 0x1000#36) ∧
      memWrite 0x1000#32 [7#8] s = .refused (.memoryTypesDiffer 0x1000#36) ∧
      ({ State.reset with others := [Cpu.reset] } : State).sameMemoryTypes := by
  and_intros
  any_goals decide +kernel
  intro c hc pa
  rw [List.mem_singleton.1 hc]
  simp [Cpu.typesDifferAt, State.reset, Cpu.reset]

/-- RDMSR at `pc`, paging disabled, ready to read the PAT (P2). -/
def p2 (pc : Word) : State :=
  { State.reset with
    cpu := { Cpu.reset with pc := pc, ecx := 0x277#32 }
    mem := Memory.write (Memory.write [] (pc + 1#32).toNat 0x32#8) pc.toNat 0x0F#8 }

theorem test_hyps_StepRunsDecodedInstruction :
    let s : State := { p2 0x1000#32 with pending := [.instruction] }
    s.instructionDue = true ∧ fetchBytes s.nextTurn = .ok [0x0F#8, 0x32#8] (p2 0x1000#32) ∧
      decode [0x0F#8, 0x32#8] = .ok (.rdmsr, []) ∧ Instr.rdmsr.wf = true := by decide +kernel

/-- R29, R30 (log 1): an event can follow an instruction. -/
theorem test_event_after_instruction :
    (match step { p2 0x1000#32 with pending := [.instruction, .event .flushTlb, .instruction] } with
      | .next t => decide (t.pending = [.event .flushTlb, .instruction] ∧ t.cpu.pc = 0x1002#32 ∧
          t.instructionDue = false)
      | .fault _ => false
      | .refused _ => false) = true := by decide +kernel

/-- At the top of the address space; and one address further, where the second byte would be at address 0. -/
theorem test_hyps_StepWithPagingDisabled :
    let s := p2 0xFFFFFFFE#32
    s.instructionDue = true ∧ s.cpu.pg = false ∧ s.cpu.pc ≠ 0xFFFFFFFF#32 ∧ s.cpu.mtrrEnabled = false ∧
      decode [0x0F#8, 0x32#8] = .ok (.rdmsr, []) ∧
      [(s.cpu.pc, 0x0F#8), (s.cpu.pc + 1#32, 0x32#8)].all (fun (a, b) =>
        decide (s.mem.read a.toNat = some b ∧ s.platform.backing? a.toNat = some .memory ∧ a.toNat ∉ s.stored ∧
          undefinedAt s.nextTurn none (a.setWidth 36) = false ∧ ∀ c ∈ s.cpu :: s.others, c.cached? (a.setWidth 36) = none)) = true ∧
      (p2 0xFFFFFFFF#32).instructionDue = true ∧ (p2 0xFFFFFFFF#32).cpu.pc = 0xFFFFFFFF#32 := by decide +kernel

theorem test_hyps_PlacedInstructionRunsNext :
    let s := State.reset
    s.cpu.pg = false ∧ s.cpu.pc ≠ 0xFFFFFFFF#32 ∧ s.cpu.mtrrEnabled = false ∧
      s.platform.backing? s.cpu.pc.toNat = some .memory ∧
      s.platform.backing? (s.cpu.pc + 1#32).toNat = some .memory ∧
      ∀ w ∈ [0x0FA2, 0x0F32, 0x0F30], [s.cpu.pc, s.cpu.pc + 1#32].all (fun a =>
        !undefinedAt (s.withFetchWord 16 w).nextTurn none (a.setWidth 36)) = true := by
  decide +kernel

theorem test_hyps_SelfModifyingFetchRefused :
    let s : State := { p2 0x1000#32 with stored := [0x1001] }
    s.instructionDue = true ∧ fetchParts s.nextTurn =
        .ok [{ la := 0x1000#32, pa := 0x1000#36, type := .uc, size := 2, undef := false }] s ∧
      0x1001 ∈ ({ la := 0x1000#32, pa := 0x1000#36, type := .uc, size := 2, undef := false } : Part).addresses ∧
      0x1001 ∈ s.stored := by decide +kernel

/-- P2 as a step: the outcome, and the invariant before it. -/
theorem test_hyps_StepKeepsInvariant :
    (p2 0x1000#32).inv = true ∧ (p2 0x1000#32).pending = [] ∧
      view (step (p2 0x1000#32)) =
        some (0x00070406#32, 0x277#32, 0x00070406#32, patReset, 0x1002#32) := by decide +kernel

theorem test_hyps_InstructionStepKeepsSystemState :
    (p2 0x1000#32).instructionDue = true ∧ (view (step (p2 0x1000#32))).isSome = true := by decide +kernel

/-- WRMSR placed at reset's fetch, with a new legal value. -/
def wrmsrNext (eax : Word) : State :=
  ({ State.reset with cpu := { Cpu.reset with ecx := 0x277#32, eax := eax, edx := 0x00070501#32 } } : State).withFetchWord
    16 0x0F30

theorem test_hyps_PatChangesOnlyByWrmsr :
    (wrmsrNext 0x00070406#32).instructionDue = true ∧ (wrmsrNext 0x00070406#32).pending = [] ∧
      view (step (wrmsrNext 0x00070406#32)) =
        some (0x00070406#32, 0x277#32, 0x00070501#32, 0x0007050100070406#64, 2#32) ∧
      (wrmsrNext 0x00070406#32).cpu.pat = patReset := by decide +kernel

/-- P5 as a step, with paging disabled: the instruction that was fetched faults in the state as it was; and a page
fault of the fetch. -/
theorem test_hyps_ExceptionLeavesRegisters :
    step (wrmsrNext 0x00070206#32) = .fault (.exception (.generalProtection 0#32) (wrmsrNext 0x00070206#32)) ∧
      (wrmsrNext 0x00070206#32).cpu.pg = false ∧ (wrmsrNext 0x00070206#32).instructionDue = true ∧
      fetchInstr (wrmsrNext 0x00070206#32).nextTurn = .ok .wrmsr (wrmsrNext 0x00070206#32) ∧
      (match step (s1 true 0#32 |> fun s => { s with cpu := { s.cpu with pc := 0x01000000#32 } }) with
        | .fault (.exception (.pageFault ec la) after) =>
          decide (ec = 9#32 ∧ la = 0x01000000#32 ∧ after.cpu.cr2 = 0x01000000#32)
        | .fault _ => false
        | .next _ => false
        | .refused _ => false) = true :=
  ⟨rfl, rfl, rfl, rfl, by decide +kernel⟩

/-- AccessedDirtyUpdate sets the accessed bit of a directory entry: one byte of it changes, in bit 5. -/
theorem test_hyps_ExceptionLeavesRegisters_walk :
    let v := 0x00000083#64
    let s : State := { s1 true 0#32 with platform := { Platform.reset with
      accessedDirty := [({ level := .pde, entry := v, access := .read, completed := true },
        { accessed := true, dirty := false })] } }
    let e : EntryRef := { level := .pde, value := v, addr := 0x123000#36, idx := 3#3 }
    s.plainStructures ∧ patValueLegal s.cpu.pat = true ∧ s.holdsAt e.addr 0x83#8 ∧
      accessedDirtyUpdates [e] .read true s = .ok () (s.setByte 0x123000#36 0xA3#8) ∧
      readEntry4 0x123000#36 3#3 s = .ok v s ∧ (0x123001 : Nat) ≠ e.addr.toNat ∧
      (walk .read 0#32 (s1 true 0#32) = .ok { pa := 0#36, page := some { size := .m4, idx := 0#3, pat := .wb } }
        (s1 true 0#32)) ∧ (s1 true 0#32).cpu.pae = false ∧
      (pae 0x123#32 0x2001#64 0x3001#64 0x0789A099#64).cpu.pae = true ∧
      (match walk .read 0x123#32 (pae 0x123#32 0x2001#64 0x3001#64 0x0789A099#64) with
        | .ok _ _ => true
        | .fault _ => false
        | .refused _ => false) = true := by
  simp only [State.plainStructures, State.holdsAt]
  decide +kernel

theorem test_hyps_EventsLeaveOtherProcessors :
    let s : State := { State.reset with others := [Cpu.reset] }
    applyEvent .flushTlb s = .ok () s ∧ (∀ k, Event.flushTlb ≠ .run k) ∧
      Event.flushTlb ∈ [Event.flushTlb, .flushCaches, .tlbDrop 0] :=
  ⟨rfl, fun _ h => (by cases h), List.mem_cons_self⟩

/-- A processor of another number runs. -/
theorem test_hyps_EventsLeaveOtherProcessors_run :
    let c : Cpu := { Cpu.reset with id := 1 }
    applyEvent (.run 0) ({ State.reset with others := [c] } : State) =
        .ok () { State.reset with cpu := c, others := [Cpu.reset] } ∧
      applyEvent (.run 1) ({ State.reset with others := [c] } : State) =
        .ok () { State.reset with others := [c] } := ⟨rfl, rfl⟩

/-- From reset, the next step runs the placed instruction. -/
theorem test_reset_runs_placed_cpuid :
    (match step (State.reset.withFetchWord 16 0x0FA2) with
      | .next t => decide (t.cpu.pc = 2#32)
      | .fault _ => false
      | .refused _ => false) = true := by decide +kernel

/-- R55, S2: with CR4.PSE = 0 the PS bit of the same entry is ignored. -/
theorem test_s2_ps_ignored : pagingMode true false (s1 false 0#32).cpu.pse true = .k4Phys32 := by decide

end Sys2Proof.Tests
end

section
/-! What physical accesses leave of memory: a read changes none, a write changes it at its own addresses only
(spec/00_scope.md R9; spec/20_memory.md R34). -/

namespace Sys2Proof.Machine

open Sys2Proof

/-- Where an operation answers, it leaves a memory that satisfies `P`. -/
def Res.LeavesMem {α : Type} (P : Memory → Prop) : Res α → Prop
  | .ok _ t => P t.mem
  | .fault _ => True
  | .refused _ => True

theorem Res.LeavesMem.bind {α β : Type} {P : Memory → Prop} {r : Res α} {k : α → State → Res β}
    (h : r.LeavesMem P) (hk : ∀ a t, P t.mem → (k a t).LeavesMem P) : (r.bind k).LeavesMem P := by
  cases r with
  | ok a t => exact hk a t h
  | fault f => trivial
  | refused q => trivial

theorem Res.LeavesMem.of_eq_ok {α : Type} {P : Memory → Prop} {r : Res α} {a : α} {t : State}
    (h : r.LeavesMem P) (e : r = .ok a t) : P t.mem := by
  subst e
  exact h

section
variable {P : Memory → Prop} {s : State}

theorem leavesMem_freeBool (h : P s.mem) : (freeBool s).LeavesMem P := h

theorem leavesMem_oneOf (b : Byte) (bs : List Byte) (h : P s.mem) : (oneOf b bs s).LeavesMem P := h

theorem leavesMem_ifMemory {α : Type} (pa : PhysAddr) {k : State → Res α} (h : (k s).LeavesMem P) :
    (ifMemory pa s k).LeavesMem P := by
  unfold ifMemory
  split
  · trivial
  · trivial
  · exact h

theorem leavesMem_keepCopy (l : CacheLine) (h : P s.mem) : (keepCopy l s).LeavesMem P := by
  refine (leavesMem_freeBool h).bind fun keep t ht => ?_
  split <;> exact ht

/-! Reads: every property of memory is kept. -/

theorem leavesMem_memoryByte (pa : PhysAddr) (h : P s.mem) : (memoryByte pa s).LeavesMem P := by
  unfold memoryByte
  split
  · exact h
  · trivial

theorem leavesMem_ownOrElsewhere (pa : PhysAddr) {own : State → Res Byte} (h : P s.mem)
    (hown : ∀ t, P t.mem → (own t).LeavesMem P) : (ownOrElsewhere pa s own).LeavesMem P := by
  unfold ownOrElsewhere
  split
  · exact hown s h
  · refine (leavesMem_freeBool h).bind fun mine t ht => ?_
    split
    · exact hown t ht
    · exact leavesMem_oneOf _ _ ht

theorem leavesMem_copyOrMemory (l : CacheLine) (pa : PhysAddr) (h : P s.mem) :
    (copyOrMemory l pa s).LeavesMem P := by
  refine (leavesMem_freeBool h).bind fun useCopy t ht => ?_
  split
  · exact ht
  · exact leavesMem_memoryByte pa ht

theorem leavesMem_readChecked (pa : PhysAddr) (h : P s.mem) : (readChecked pa s).LeavesMem P := by
  unfold readChecked
  split
  case h_1 => -- no copy is dirty
    split
    · split
      · exact h
      · exact leavesMem_copyOrMemory _ pa h
    · exact leavesMem_memoryByte pa h
  case h_2 => -- a dirty copy answers, or one of them
    split
    · exact h
    · exact leavesMem_oneOf _ _ h

theorem leavesMem_readUnchecked (pa : PhysAddr) (h : P s.mem) : (readUnchecked pa s).LeavesMem P := by
  unfold readUnchecked
  split
  · exact leavesMem_memoryByte pa h
  · refine leavesMem_ownOrElsewhere pa h fun t ht => (leavesMem_freeBool ht).bind fun check u hu => ?_
    split
    · exact leavesMem_readChecked pa hu
    · exact leavesMem_memoryByte pa hu

theorem leavesMem_readCacheable (pa : PhysAddr) (ty : EffType) (h : P s.mem) :
    (readCacheable pa ty s).LeavesMem P := by
  refine leavesMem_ownOrElsewhere pa h fun t ht => ?_
  split
  · split
    · exact ht
    · exact leavesMem_copyOrMemory _ pa ht
  · exact (leavesMem_memoryByte pa ht).bind fun b u hu => (leavesMem_keepCopy _ hu).bind fun _ _ hw => hw

theorem leavesMem_readByte (pa : PhysAddr) (ty : EffType) (h : P s.mem) : (readByte pa ty s).LeavesMem P := by
  refine leavesMem_ifMemory pa ?_
  cases ty with
  | ucPage => exact leavesMem_readChecked pa h
  | ucMtrr => exact leavesMem_readUnchecked pa h
  | uc => exact leavesMem_readUnchecked pa h
  | wc =>
    simp only [readBacked]
    split
    · exact leavesMem_memoryByte pa h
    · exact h
  | wt => exact leavesMem_readCacheable pa _ h
  | wp => exact leavesMem_readCacheable pa _ h
  | wb => exact leavesMem_readCacheable pa _ h

theorem leavesMem_physRead (pa : PhysAddr) (n : Nat) (ty : EffType) (h : P s.mem) :
    (physRead pa n ty s).LeavesMem P := by
  induction n generalizing pa s with
  | zero => exact h
  | succ n ih => exact (leavesMem_readByte pa ty h).bind fun _ _ ht => (ih _ ht).bind fun _ _ hu => hu

/-! Writes: a property of memory that no byte written at the access's addresses can break is kept. -/

theorem leavesMem_writeToMemory {pa : PhysAddr} (v : Byte) (hw : ∀ m b, P m → P (m.write pa.toNat b))
    (h : P s.mem) : (writeToMemory pa v s).LeavesMem P := by
  rcases writeToMemory_cases pa v s with e | e | e <;> rw [e] <;> exact hw _ v h

theorem leavesMem_writeUnchecked {pa : PhysAddr} (v : Byte) (hw : ∀ m b, P m → P (m.write pa.toNat b))
    (h : P s.mem) : (writeUnchecked pa v s).LeavesMem P := by
  unfold writeUnchecked
  split
  · exact hw _ v h
  · refine (leavesMem_freeBool h).bind fun check t ht => ?_
    split <;> exact hw _ v ht

theorem leavesMem_writeByte {pa : PhysAddr} (ty : EffType) (v : Byte)
    (hw : ∀ m b, P m → P (m.write pa.toNat b)) (h : P s.mem) : (writeByte pa ty v s).LeavesMem P := by
  refine leavesMem_ifMemory pa ?_
  cases ty with
  | wb =>
    simp only [writeBacked]
    split
    · exact h
    · refine (leavesMem_freeBool h).bind fun keep t ht => ?_
      split
      · exact ht
      · exact leavesMem_writeToMemory v hw ht
  | wt =>
    refine (leavesMem_writeToMemory v hw h).bind fun _ t ht => ?_
    split
    · exact ht
    · exact leavesMem_keepCopy _ ht
  | wp => exact (leavesMem_writeToMemory v hw h).bind fun _ _ ht => ht
  | ucPage => exact hw _ v h
  | ucMtrr => exact leavesMem_writeUnchecked v hw h
  | uc => exact leavesMem_writeUnchecked v hw h
  | wc =>
    simp only [writeBacked]
    split <;> exact hw _ _ h

end

/-- The address of byte `i` of an access that begins one byte later, after the last address 0 (log 41). -/
theorem physAddr_succ (pa : PhysAddr) (i : Nat) : pa + 1#36 + BitVec.ofNat 36 i = pa + BitVec.ofNat 36 (i + 1) := by
  rw [BitVec.add_assoc, ← BitVec.ofNat_add, Nat.add_comm]

/-- A byte written leaves every other byte of memory. -/
theorem writeByte_read_other {pa : PhysAddr} {ty : EffType} {v : Byte} {s t : State} {a : Nat}
    (e : writeByte pa ty v s = .ok () t) (ha : a ≠ pa.toNat) : t.mem.read a = s.mem.read a :=
  (leavesMem_writeByte (P := (·.read a = s.mem.read a)) ty v
    (fun m b hm => (m.read_write_other b ha).trans hm) rfl).of_eq_ok e

/-- Bytes written leave every byte of memory at an address that is none of theirs. -/
theorem physWrite_read_other {pa : PhysAddr} {ty : EffType} {vs : List Byte} {s u : State} {a : Nat}
    (e : physWrite pa ty vs s = .ok () u) (ha : ∀ i < vs.length, a ≠ (pa + BitVec.ofNat 36 i).toNat) :
    u.mem.read a = s.mem.read a := by
  induction vs generalizing pa s with
  | nil =>
    cases e
    rfl
  | cons v vs ih =>
    obtain ⟨_, t, hfirst, hrest⟩ := Res.bind_eq_ok.1 e
    have first : a ≠ pa.toNat := by simpa using ha 0 (Nat.succ_pos _)
    have rest : ∀ i < vs.length, a ≠ (pa + 1#36 + BitVec.ofNat 36 i).toNat := fun i hi => by
      rw [physAddr_succ]
      exact ha (i + 1) (Nat.succ_lt_succ hi)
    exact (ih hrest rest).trans (writeByte_read_other hfirst first)

/-- A read leaves memory as it is. -/
theorem physRead_mem {pa : PhysAddr} {n : Nat} {ty : EffType} {bs : List Byte} {s u : State}
    (e : physRead pa n ty s = .ok bs u) : u.mem = s.mem :=
  (leavesMem_physRead (P := (· = s.mem)) pa n ty rfl).of_eq_ok e

/-- Settles O40: byte by byte, a write changes memory at its own address and a read nowhere. -/
theorem physAccessFrame : Obligations.PhysAccessFrame :=
  ⟨fun _ _ _ _ _ e _ ha => physWrite_read_other e ha, fun _ _ _ _ _ _ e => physRead_mem e⟩

end Sys2Proof.Machine
end

section
/-! The three instructions: what each answers and leaves (spec/40_cpuid.md R86; spec/41_msr_access.md R88 to R91). -/

namespace Sys2Proof.Machine

open Sys2Proof

/-- At ring 0 with `ECX = 277H`, RDMSR reads the PAT into EDX:EAX (R88). -/
theorem exec_rdmsr {s : State} (hcpl : s.cpu.cpl = 0#2) (hecx : s.cpu.ecx = patMsr) :
    exec .rdmsr s = .next (s.setMsrPair s.cpu.pat).advance := by
  simp [exec, execRdmsr, hcpl, hecx]

/-- At ring 0 with `ECX = 277H`, WRMSR of a legal value writes it to the PAT (R89, R90). -/
theorem exec_wrmsr {s : State} (hcpl : s.cpu.cpl = 0#2) (hecx : s.cpu.ecx = patMsr)
    (hlegal : patValueLegal s.msrValue = true) : exec .wrmsr s = .next (s.setPat s.msrValue).advance := by
  simp [exec, execWrmsr, hcpl, hecx, hlegal]

/-- Everything an instruction that completes can have done. -/
theorem exec_next_cases {i : Instr} {s t : State} (h : exec i s = .next t) :
    (i = .cpuid ∧ (t = (cpuidLeafOne s).advance ∨ t = (cpuidOtherLeaf s).advance)) ∨
    (i = .rdmsr ∧ t = (s.setMsrPair s.cpu.pat).advance) ∨
    (i = .wrmsr ∧ s.cpu.cpl = 0#2 ∧ s.cpu.ecx = patMsr ∧ patValueLegal s.msrValue = true ∧
      t = (s.setPat s.msrValue).advance) := by
  cases i with
  | cpuid =>
    simp only [exec, execCpuid] at h
    split at h <;> cases h
    · exact .inl ⟨rfl, .inl rfl⟩
    · exact .inl ⟨rfl, .inr rfl⟩
  | rdmsr =>
    simp only [exec, execRdmsr] at h
    split_ifs at h
    cases h
    exact .inr (.inl ⟨rfl, rfl⟩)
  | wrmsr =>
    simp only [exec, execWrmsr] at h
    split_ifs at h with hcpl hecx hlegal
    cases h
    exact .inr (.inr ⟨rfl, not_not.1 hcpl, not_not.1 hecx, by simpa using hlegal, rfl⟩)

/-- The 64-bit value of two halves that were taken from one value is that value. -/
theorem extract_halves_append (v : QWord) : v.extractLsb' 32 32 ++ v.extractLsb' 0 32 = v := by
  rw [BitVec.extractLsb'_append_extractLsb'_eq_extractLsb' (by omega)]
  simp

/-- RDMSR leaves in EDX:EAX the value it read. -/
@[simp] theorem State.msrValue_setMsrPair_advance (s : State) (v : QWord) :
    (s.setMsrPair v).advance.msrValue = v := extract_halves_append v

/-- Settles O9: the privilege test comes before the test of the address. -/
theorem msrAccessStops : Obligations.MsrAccessStops := by
  refine ⟨fun s i hcpl hi => ?_, fun s i hcpl hecx hi => ?_⟩
  · rcases hi with rfl | rfl
    · simp [exec, execRdmsr, hcpl, exceptionFault, afterException]
    · simp [exec, execWrmsr, hcpl, exceptionFault, afterException]
  · rcases hi with rfl | rfl
    · simp [exec, execRdmsr, hcpl, hecx, patMsr]
    · simp [exec, execWrmsr, hcpl, hecx, patMsr]

/-- Settles O10: each of the two instructions leaves what the other needs. -/
theorem msrReadWriteRoundTrips : Obligations.MsrReadWriteRoundTrips := by
  have twice (pc : Word) : pc + 2#32 + 2#32 = pc + 4#32 := by rw [BitVec.add_assoc]; rfl
  refine ⟨fun s hcpl hecx hlegal => ?_, fun s hcpl hecx hlegal => ?_⟩
  · have hread := exec_rdmsr hcpl hecx
    have hwrite : exec .wrmsr (s.setMsrPair s.cpu.pat).advance = _ := exec_wrmsr hcpl hecx (by simpa using hlegal)
    exact ⟨_, _, hread, hwrite, State.msrValue_setMsrPair_advance s _, extract_halves_append _, twice _⟩
  · have hwrite := exec_wrmsr hcpl hecx hlegal
    have hread : exec .rdmsr (s.setPat s.msrValue).advance = _ := exec_rdmsr hcpl hecx
    refine ⟨_, _, hwrite, hread, rfl, ?_, ?_, rfl, twice _⟩
    · exact BitVec.extractLsb'_append_eq_left
    · exact BitVec.extractLsb'_append_eq_right

/-- Settles O11: each completed instruction changes registers of the running processor and the count of free
values only. -/
theorem instructionFrame : Obligations.InstructionFrame := by
  intro i s t h
  rcases exec_next_cases h with ⟨rfl, rfl | rfl⟩ | ⟨rfl, rfl⟩ | ⟨rfl, _, _, _, rfl⟩
  · simp [cpuidLeafOne]
  · simp [cpuidOtherLeaf]
  · simp
  · simp

end Sys2Proof.Machine
end

section
/-! What the events change beyond the bytes of memory and of the caches (spec/10_state.md R19, R29, R30). -/

namespace Sys2Proof.Machine

open Sys2Proof

/-- A quiet change does not look at the record of stores. -/
theorem Quiet.noteStored {s t : State} (h : Quiet s t) (as : List Nat) :
    Quiet (s.noteStored as) (t.noteStored as) where
  cpu := h.cpu
  others := h.others
  platform := h.platform
  remaps := h.remaps
  stored := by simp [h.stored]
  pending := h.pending
  readData := h.readData
  freeCount := h.freeCount
  memWf := h.memWf
  cacheUnique := h.cacheUnique

/-- A part that is written is a quiet change but for the note of its addresses (log 27). -/
theorem writePart_quiet {p : Part} {bs : List Byte} {s t : State} (e : writePart p bs s = .ok () t) :
    Quiet (s.noteStored p.addresses) t := by
  obtain ⟨_, u, hw, he⟩ := Res.bind_eq_ok.1 e
  cases he
  have written : Quiet s u := (framed_physWrite p.pa p.type (bs.take p.size) s).of_eq_ok hw
  refine Quiet.noteStored (written.trans ?_) _
  split
  · exact Quiet.undefineBytes u _
  · exact Quiet.refl u

theorem writeParts_quiet {ps : List Part} {bs : List Byte} {s t : State} (e : writeParts ps bs s = .ok () t) :
    ∃ as, Quiet (s.noteStored as) t := by
  induction ps generalizing bs s with
  | nil =>
    cases e
    exact ⟨[], Quiet.refl _⟩
  | cons p ps ih =>
    obtain ⟨_, u, hp, hps⟩ := Res.bind_eq_ok.1 e
    obtain ⟨as, q⟩ := ih hps
    refine ⟨as ++ p.addresses, ?_⟩
    have first := (writePart_quiet hp).noteStored as
    simpa [State.noteStored] using first.trans q

/-- A load or store goes on, where it does, in the state it was asked in. -/
theorem ifTypesAgree_eq_ok {α : Type} {as : List PhysAddr} {s t : State} {k : State → Res α} {a : α}
    (e : ifTypesAgree as s k = .ok a t) : k s = .ok a t := by
  unfold ifTypesAgree at e
  split at e
  · cases e
  · exact e

/-- A completed store is a quiet change but for the note of its addresses. -/
theorem memWrite_quiet {la : LinAddr} {bs : List Byte} {s t : State} (e : memWrite la bs s = .ok () t) :
    ∃ as, Quiet (s.noteStored as) t := by
  obtain ⟨ps, u, hparts, hwrite⟩ := Res.bind_eq_ok.1 e
  obtain ⟨as, q⟩ := writeParts_quiet (ifTypesAgree_eq_ok hwrite)
  exact ⟨as, (((framed_accessParts _ _ _ _ s).of_eq_ok hparts).noteStored as).trans q⟩

/-- Speculation that fails leaves the quiet change of its walk, and CR2 as it was (log 38). -/
theorem Framed.speculationFailed_quiet {α : Type} {s : State} {r : Res α} {f : Fault} (h : Framed s r)
    (e : r = .fault f) : Quiet s (s.speculationFailed f) := by
  subst e
  rcases f with ⟨_, _⟩ | _ | _
  · obtain ⟨ec, la, t, rfl, q, rfl⟩ := h
    have restored : s.speculationFailed (.exception (.pageFault ec la) (afterException (.pageFault ec la) t)) = t := by
      simp only [State.speculationFailed, afterException]
      have hcr2 : s.cpu.cr2 = t.cpu.cr2 := by rw [q.cpu]
      rw [hcr2]
    rw [restored]
    exact q
  · exact Quiet.refl s
  · exact Quiet.refl s

/-- The event tlbFill is a quiet change but for the TLB. -/
theorem State.tlbFill_quiet (s : State) (access : Access) (la : LinAddr) :
    ∃ t tlb, Quiet s t ∧ s.tlbFill access la = { t with cpu := { t.cpu with tlb := tlb } } := by
  unfold State.tlbFill
  split
  case isTrue =>
    have framed := framed_walk access la s
    split
    · rename_i tr t hwalk
      split
      · exact ⟨t, _, framed.of_eq_ok hwalk, rfl⟩
      · exact ⟨t, t.cpu.tlb, framed.of_eq_ok hwalk, rfl⟩
    · rename_i f hwalk
      exact ⟨_, _, framed.speculationFailed_quiet hwalk, rfl⟩
    · exact ⟨s, s.cpu.tlb, Quiet.refl s, rfl⟩
  case isFalse => exact ⟨s, s.cpu.tlb, Quiet.refl s, rfl⟩

theorem State.fillByte_quiet (s : State) (pa : PhysAddr) (ty : EffType) : Quiet s (s.fillByte pa ty) := by
  unfold State.fillByte
  split
  · split
    · exact Quiet.setLine s _
    · exact Quiet.refl s
  · exact Quiet.refl s

theorem State.cacheFill_quiet (s : State) (access : Access) (la : LinAddr) : Quiet s (s.cacheFill access la) := by
  have framed := (framed_translate access la s).bind fun tr t _ =>
    (framed_accessPage tr.page t).bind fun page u _ =>
      (framed_effectiveType tr.pa (page.map (·.pat)) u).bind fun ty w _ =>
        Framed.ok (a := (tr.pa, ty)) (Quiet.refl w)
  unfold State.cacheFill
  split
  · rename_i u hok
    exact (framed.of_eq_ok hok).trans (State.fillByte_quiet u _ _)
  · rename_i f hfault
    exact framed.speculationFailed_quiet hfault
  · exact Quiet.refl s

theorem State.cacheDrop_quiet (s : State) (pa : PhysAddr) : Quiet s (s.cacheDrop pa) := by
  unfold State.cacheDrop
  split
  · split
    · exact (Quiet.setByte s pa _).trans (Quiet.dropLine _ pa)
    · exact Quiet.dropLine s pa
  · exact Quiet.refl s

/-- The choice of the running processor brings no new processor into the system. -/
theorem State.runProcessor_subset (s : State) (k : Nat) {c : Cpu}
    (hc : c ∈ (s.runProcessor k).cpu :: (s.runProcessor k).others) : c ∈ s.cpu :: s.others := by
  unfold State.runProcessor at hc
  split at hc
  · rename_i d hd
    rcases List.mem_cons.1 hc with rfl | hset
    · exact List.mem_cons_of_mem _ (List.mem_of_getElem? hd)
    · rcases List.mem_or_eq_of_mem_set hset with h | rfl
      · exact List.mem_cons_of_mem _ h
      · exact List.mem_cons_self
  · exact hc

theorem State.runProcessor_mem (s : State) (k : Nat) : (s.runProcessor k).mem = s.mem := by
  unfold State.runProcessor
  split <;> rfl

end Sys2Proof.Machine
end

section
/-! The invariant: every processor is sound and memory has its canonical form (spec/10_state.md R24, R28, R30). -/

namespace Sys2Proof.Machine

open Sys2Proof

theorem Cpu.sound_iff {c : Cpu} :
    c.sound = true ↔
      patValueLegal c.pat = true ∧ (∀ o ∈ c.olderPats, patValueLegal o.pat = true) ∧ c.CacheUnique := by
  simp [Cpu.sound, Cpu.patsInUse, Cpu.CacheUnique, and_assoc]

theorem State.inv_iff {s : State} :
    s.inv = true ↔ s.cpu.sound = true ∧ (∀ c ∈ s.others, c.sound = true) ∧ s.mem.wf = true := by
  simp [State.inv, and_assoc]

/-- Soundness of other processors does not see the values of their cached bytes. -/
theorem sound_of_withoutBytes_eq {cs ds : List Cpu} (h : ds.map Cpu.withoutBytes = cs.map Cpu.withoutBytes)
    (hcs : ∀ c ∈ cs, c.sound = true) : ∀ d ∈ ds, d.sound = true := by
  intro d hd
  have : d.withoutBytes ∈ cs.map Cpu.withoutBytes := h ▸ List.mem_map_of_mem hd
  obtain ⟨c, hc, hcd⟩ := List.mem_map.1 this
  rw [← d.sound_withoutBytes, ← hcd, c.sound_withoutBytes]
  exact hcs c hc

/-- A quiet change keeps the invariant. -/
theorem Quiet.inv {s t : State} (q : Quiet s t) (hs : s.inv = true) : t.inv = true := by
  obtain ⟨hcpu, hothers, hmem⟩ := State.inv_iff.1 hs
  obtain ⟨hpat, holder, hunique⟩ := Cpu.sound_iff.1 hcpu
  refine State.inv_iff.2 ⟨Cpu.sound_iff.2 ⟨?_, ?_, q.cacheUnique hunique⟩,
    sound_of_withoutBytes_eq q.others hothers, q.memWf hmem⟩
  · rwa [q.pat]
  · rwa [q.olderPats]

/-- What a step notes at its beginning keeps the invariant. -/
theorem nextTurn_inv {s : State} (hs : s.inv = true) : s.nextTurn.inv = true := by
  have sound_note (c : Cpu) : (c.noteCacheable s).sound = c.sound := by
    simp [Cpu.sound, Cpu.patsInUse]
  obtain ⟨hcpu, hothers, hmem⟩ := State.inv_iff.1 hs
  refine State.inv_iff.2 ⟨by rw [State.nextTurn_cpu, sound_note, hcpu], fun c hc => ?_, hmem⟩
  obtain ⟨d, hd, rfl⟩ := List.mem_map.1 hc
  rw [sound_note, hothers d hd]

/-- An instruction keeps the invariant: WRMSR writes legal values only, and the value it replaces was legal. -/
theorem exec_inv {i : Instr} {s t : State} (hs : s.inv = true) (h : exec i s = .next t) : t.inv = true := by
  rcases exec_next_cases h with ⟨_, rfl | rfl⟩ | ⟨_, rfl⟩ | ⟨_, _, _, hlegal, rfl⟩
  · exact hs
  · exact hs
  · exact hs
  · obtain ⟨hcpu, hothers, hmem⟩ := State.inv_iff.1 hs
    obtain ⟨hpat, holder, hunique⟩ := Cpu.sound_iff.1 hcpu
    refine State.inv_iff.2 ⟨Cpu.sound_iff.2 ⟨hlegal, fun o ho => ?_, hunique⟩, hothers, hmem⟩
    simp only [State.advance_olderPats, State.setPat_olderPats, Cpu.olderPatsAfter] at ho
    split at ho
    · exact holder o ho
    · rcases List.mem_cons.1 ho with rfl | ho
      · exact hpat
      · exact holder o ho

/-- FlushTLB keeps the invariant: no value of the PAT comes into use. -/
theorem flushTlb_inv {s : State} (hs : s.inv = true) : s.flushTlb.inv = true := by
  obtain ⟨hcpu, hothers, hmem⟩ := State.inv_iff.1 hs
  obtain ⟨hpat, holder, hunique⟩ := Cpu.sound_iff.1 hcpu
  refine State.inv_iff.2 ⟨Cpu.sound_iff.2 ⟨hpat, fun o ho => ?_, hunique⟩, hothers, hmem⟩
  obtain ⟨p, hp, rfl⟩ := List.mem_map.1 ho
  exact holder p (List.mem_of_mem_filter hp)

/-- FlushCaches keeps the invariant: no value of the PAT comes into use and no copy stays. -/
theorem flushCaches_inv {s : State} (hs : s.inv = true) : s.flushCaches.inv = true := by
  obtain ⟨hcpu, hothers, hmem⟩ := State.inv_iff.1 hs
  obtain ⟨hpat, holder, _⟩ := Cpu.sound_iff.1 hcpu
  refine State.inv_iff.2 ⟨Cpu.sound_iff.2 ⟨hpat, fun o ho => ?_, List.nodup_nil⟩, hothers,
    s.flushCaches_mem_wf hmem⟩
  obtain ⟨p, hp, rfl⟩ := List.mem_map.1 ho
  exact holder p (List.mem_of_mem_filter hp)

/-- Every event keeps the invariant. -/
theorem applyEvent_inv {e : Event} {s t : State} (hs : s.inv = true) (h : applyEvent e s = .ok () t) :
    t.inv = true := by
  cases e with
  | flushTlb =>
    cases h
    exact flushTlb_inv hs
  | flushCaches =>
    cases h
    exact flushCaches_inv hs
  | tlbFill access la =>
    cases h
    obtain ⟨u, tlb, q, hfill⟩ := s.tlbFill_quiet access la
    rw [hfill]
    exact q.inv hs
  | cacheFill access la =>
    cases h
    exact (s.cacheFill_quiet access la).inv hs
  | cacheDrop pa =>
    cases h
    exact (s.cacheDrop_quiet pa).inv hs
  | tlbDrop | setCr0 | setCr3 | setCr4 | setMtrrDefType =>
    -- soundness looks at none of these registers
    cases h
    exact hs
  | memRead la n =>
    obtain ⟨bs, u, hread, ht⟩ := Res.bind_eq_ok.1 h
    cases ht
    exact ((framed_memRead la n s).of_eq_ok hread).inv hs
  | memWrite la bs =>
    obtain ⟨as, q⟩ := memWrite_quiet h
    exact q.inv hs
  | run k =>
    cases h
    simp only [State.inv, Bool.and_eq_true, List.all_eq_true] at hs ⊢
    obtain ⟨hsound, hmem⟩ := hs
    exact ⟨fun c hc => hsound c (s.runProcessor_subset k hc), (s.runProcessor_mem k).symm ▸ hmem⟩

/-- Settles O2: the PAT at reset is legal, and there is nothing else to be unsound. -/
theorem resetSatisfiesInvariant : Obligations.ResetSatisfiesInvariant :=
  State.inv_iff.2
    ⟨Cpu.sound_iff.2 ⟨by decide, fun _ ho => absurd ho List.not_mem_nil, List.nodup_nil⟩,
      fun _ hc => absurd hc List.not_mem_nil, reset_mem_wf⟩

/-- Settles O54: each event and each instruction keeps the invariant, and so do the beginning of a step and the
fetch. -/
theorem stepKeepsInvariant : Obligations.StepKeepsInvariant := by
  intro s t hs h
  rcases step_next_cases h with ⟨e, rest, _, hevent⟩ | ⟨_, i, u, hfetch, hexec⟩
  · exact applyEvent_inv (nextTurn_inv hs) hevent
  · have fetched : Quiet s.nextTurn u := (framed_fetchInstr s.nextTurn).of_eq_ok hfetch
    exact exec_inv (fetched.inv (nextTurn_inv hs)) hexec

end Sys2Proof.Machine
end

section
/-! What a step keeps of the running processor's system state (spec/10_state.md R19, R22; spec/60_exceptions.md
R102). -/

namespace Sys2Proof.Machine

open Sys2Proof

/-- No event but the choice of another processor changes the running processor's PAT (R22). -/
theorem applyEvent_pat {e : Event} {s t : State} (h : applyEvent e s = .ok () t) (hrun : ∀ k, e ≠ .run k) :
    t.cpu.pat = s.cpu.pat := by
  cases e with
  | tlbFill access la =>
    cases h
    obtain ⟨u, tlb, q, hfill⟩ := s.tlbFill_quiet access la
    rw [hfill]
    exact q.pat
  | cacheFill access la =>
    cases h
    exact (s.cacheFill_quiet access la).pat
  | cacheDrop pa =>
    cases h
    exact (s.cacheDrop_quiet pa).pat
  | flushTlb | flushCaches | tlbDrop | setCr0 | setCr3 | setCr4 | setMtrrDefType =>
    -- each writes other fields only
    cases h
    rfl
  | memRead la n =>
    obtain ⟨bs, u, hread, ht⟩ := Res.bind_eq_ok.1 h
    cases ht
    exact ((framed_memRead la n s).of_eq_ok hread).pat
  | memWrite la bs =>
    obtain ⟨as, q⟩ := memWrite_quiet h
    exact q.pat
  | run k => exact absurd rfl (hrun k)

/-- An instruction is executed with the registers that its step began with. -/
theorem sameRegisters_of_fetch {s u : State} {i : Instr} (h : fetchInstr s.nextTurn = .ok i u) :
    u.cpu.sameRegisters s.cpu := by
  have q : Quiet s.nextTurn u := (framed_fetchInstr s.nextTurn).of_eq_ok h
  obtain ⟨fs, hnote, _⟩ := s.cpu.noteCacheable_eq s
  have hregs := q.sameRegisters
  rwa [State.nextTurn_cpu, hnote] at hregs

/-- Settles O55: of events none but the choice of the processor, and of instructions WRMSR alone, changes the
PAT. -/
theorem patChangesOnlyByWrmsr : Obligations.PatChangesOnlyByWrmsr := by
  intro s t h hrun hne
  rcases step_next_cases h with ⟨e, rest, hpend, hevent⟩ | ⟨hdue, i, u, hfetch, hexec⟩
  · have hpat : t.cpu.pat = s.nextTurn.cpu.pat :=
      applyEvent_pat hevent fun k hk => hrun k rest (hk ▸ hpend)
    exact absurd (by simpa using hpat) hne
  · obtain ⟨heax, _, hecx, hedx, _, hcpl, _, _, _, _, hpat, _⟩ := sameRegisters_of_fetch hfetch
    rcases exec_next_cases hexec with ⟨_, rfl | rfl⟩ | ⟨_, rfl⟩ | ⟨rfl, hring, haddr, hlegal, rfl⟩
    · exact absurd hpat hne
    · exact absurd hpat hne
    · exact absurd hpat hne
    · refine ⟨hdue, ⟨u, hfetch⟩, hcpl ▸ hring, hecx ▸ haddr, ?_, hlegal⟩
      rw [← hedx, ← heax]
      rfl

/-- Settles O56: the fetch is a quiet change, and the instruction has its frame. -/
theorem instructionStepKeepsSystemState : Obligations.InstructionStepKeepsSystemState := by
  intro s t hdue h
  rcases step_next_cases h with ⟨e, rest, hpend, _⟩ | ⟨_, i, u, hfetch, hexec⟩
  · simp [State.instructionDue, hpend] at hdue
  · have q : Quiet s.nextTurn u := (framed_fetchInstr s.nextTurn).of_eq_ok hfetch
    obtain ⟨_, _, _, _, hpc, hcpl, hcr0, hcr2, hcr3, hcr4, _, _, hdef, hmtrrs⟩ := sameRegisters_of_fetch hfetch
    have htlb : u.cpu.tlb = s.cpu.tlb := by simp [q.tlb]
    obtain ⟨_, others', _, _, stored', pending', _, _, cpl', cr0', cr2', cr3', cr4', def', mtrrs', tlb', _, _, pc',
      _⟩ := instructionFrame i u t hexec
    exact ⟨cpl'.trans hcpl, cr0'.trans hcr0, cr2'.trans hcr2, cr3'.trans hcr3, cr4'.trans hcr4, def'.trans hdef,
      mtrrs'.trans hmtrrs, tlb'.trans htlb, others' ▸ q.others, stored'.trans q.stored,
      pending'.trans q.pending, pc'.trans (hpc ▸ rfl)⟩

end Sys2Proof.Machine
end

section
/-! The lookup in the PAT (spec/10_state.md R23, R24; spec/20_memory.md R60, R61). -/

namespace Sys2Proof.Machine

open Sys2Proof

/-- Settles O1: the reset value, field by field. -/
theorem resetPatValue : Obligations.ResetPatValue := ⟨rfl, by decide⟩

/-- A byte is read as a type exactly where it is the type's encoding (R61). -/
theorem ofEncoding?_eq_some {b : Byte} {p : PatType} : PatType.ofEncoding? b = some p ↔ p.encoding = b := by
  constructor
  · intro h
    simp only [PatType.ofEncoding?] at h
    split_ifs at h <;> cases h <;> simp_all [PatType.encoding]
  · rintro rfl
    cases p <;> rfl

/-- The low three bits of an encoding are the whole of it. -/
theorem encoding_low_bits (p : PatType) : p.encoding &&& 0x07#8 = p.encoding := by cases p <;> rfl

/-- The lookup in a legal value of the PAT gives the type whose encoding the whole field holds. -/
theorem patType?_of_legal {pat : QWord} (h : patValueLegal pat = true) (idx : BitVec 3) :
    ∃ p, patType? pat idx = some p ∧ p.encoding = patField pat idx.toNat := by
  have field : (PatType.ofEncoding? (patField pat idx.toNat)).isSome = true :=
    List.all_eq_true.1 h _ (List.mem_range.2 idx.isLt)
  obtain ⟨p, hp⟩ := Option.isSome_iff_exists.1 field
  have henc := ofEncoding?_eq_some.1 hp
  exact ⟨p, by rw [patType?, ← henc, encoding_low_bits, ofEncoding?_eq_some], henc⟩

theorem mem_livePats {c : Cpu} {pat : QWord} :
    pat ∈ c.livePats ↔ ∃ o ∈ c.olderPats, o.live = true ∧ o.pat = pat := by
  simp [Cpu.livePats, and_assoc]

theorem livePats_eq_nil {c : Cpu} (h : ∀ o ∈ c.olderPats, o.live = false) : c.livePats = [] := by
  simpa [Cpu.livePats, List.filter_eq_nil_iff] using h

/-- Where the live older values of the PAT are legal, the type of an access is its translation's or one of theirs, and
finding it changes the count of free values at most (R112; log 20). -/
theorem accessPat_of_legal {idx : BitVec 3} {p : PatType} {s : State}
    (h : ∀ pat ∈ s.cpu.livePats, patValueLegal pat = true) :
    ∃ q t, accessPat idx p s = .ok q t ∧
      (q = p ∨ ∃ pat ∈ s.cpu.livePats, q.encoding = patField pat idx.toNat) ∧ (t = s ∨ t = s.drawn) := by
  unfold accessPat
  split
  case isTrue => exact ⟨p, s, rfl, .inl rfl, .inl rfl⟩
  case isFalse =>
    split
    · rename_i pat hpat
      have live := List.mem_of_getElem? hpat
      obtain ⟨q, hq, henc⟩ := patType?_of_legal (h pat live) idx
      exact ⟨q, s.drawn, patLookupIn_eq_ok.2 ⟨hq, rfl⟩, .inr ⟨pat, live, henc⟩, .inr rfl⟩
    · exact ⟨p, s.drawn, rfl, .inl rfl, .inr rfl⟩

/-- Settles O12: each lookup is one in a legal value. -/
theorem legalPatLookupIsTotal : Obligations.LegalPatLookupIsTotal := by
  refine ⟨fun pat idx h => patType?_of_legal h idx, fun s idx h => ?_, fun s idx p h => ?_⟩
  · obtain ⟨p, hp, henc⟩ := patType?_of_legal h idx
    exact ⟨p, patLookup_eq_ok.2 ⟨hp, rfl⟩, henc⟩
  · have legal : ∀ pat ∈ s.cpu.livePats, patValueLegal pat = true := fun pat hpat => by
      obtain ⟨o, ho, hlive, rfl⟩ := mem_livePats.1 hpat
      exact h o ho hlive
    obtain ⟨q, t, hq, htype, hstate⟩ := accessPat_of_legal (idx := idx) (p := p) legal
    refine ⟨q, t, hq, htype.imp_right ?_, ?_, ?_, fun hnone => ?_⟩
    · rintro ⟨pat, hpat, henc⟩
      obtain ⟨o, ho, hlive, rfl⟩ := mem_livePats.1 hpat
      exact ⟨o, ho, hlive, henc⟩
    · rcases hstate with rfl | rfl <;> rfl
    · rcases hstate with rfl | rfl <;> rfl
    · rw [accessPat_of_none_live (livePats_eq_nil hnone)] at hq
      cases hq
      exact ⟨rfl, rfl⟩

end Sys2Proof.Machine
end

section
/-! Where a translation and its memory type come from (spec/20_memory.md R36, R44, R47, R51, R60; spec/10_state.md
R29). -/

namespace Sys2Proof.Machine

open Sys2Proof

/-- A value above bit `k` and another below it, bit by bit. -/
theorem getLsbD_extract_append {w k n : Nat} (x : BitVec w) (y : BitVec k) (hw : w ≤ k + n) (i : Nat) :
    (x.extractLsb' k n ++ y).getLsbD i = if i < k then y.getLsbD i else x.getLsbD i := by
  rw [BitVec.getLsbD_append, BitVec.getLsbD_extractLsb']
  by_cases low : i < k
  · simp [low]
  · have high : k + (i - k) = i := by omega
    by_cases inside : i - k < n
    · simp [low, inside, high]
    · simp [low, inside, BitVec.getLsbD_of_ge x i (by omega)]

/-- An address in a page has the page's base above the offset, and the offset below. -/
theorem getLsbD_inPage (size : PageSize) (base : PhysAddr) (la : LinAddr) (i : Nat) :
    (inPage size base la).getLsbD i = if i < pageBits size then la.getLsbD i else base.getLsbD i := by
  have low (k : Nat) : (if i < k then (la.extractLsb' 0 k).getLsbD i else base.getLsbD i) =
      if i < k then la.getLsbD i else base.getLsbD i := by
    simp +contextual
  cases size <;> exact (getLsbD_extract_append base _ (by decide) i).trans (low _)

theorem getLsbD_pageStart (size : PageSize) (la : LinAddr) (i : Nat) :
    (pageStart size la).getLsbD i = if i < pageBits size then false else la.getLsbD i := by
  have low (k : Nat) : (if i < k then (0#k).getLsbD i else la.getLsbD i) =
      if i < k then false else la.getLsbD i := by
    simp
  cases size <;> exact (getLsbD_extract_append la _ (by decide) i).trans (low _)

/-- The base of a page of which an address was taken is the base of the address. -/
theorem inPage_inPage (size : PageSize) (base : PhysAddr) (la lb : LinAddr) :
    inPage size (inPage size base la) lb = inPage size base lb := by
  refine BitVec.eq_of_getLsbD_eq fun i _ => ?_
  simp only [getLsbD_inPage]
  split_ifs <;> rfl

/-- The first byte of a page is in the page. -/
theorem pageStart_pageStart (size : PageSize) (la : LinAddr) :
    pageStart size (pageStart size la) = pageStart size la := by
  refine BitVec.eq_of_getLsbD_eq fun i _ => ?_
  simp only [getLsbD_pageStart]
  split_ifs <;> rfl

/-- An address with the offset of `la` is the one at `la`'s offset in its own page. -/
theorem inPage_eq_self {size : PageSize} {pa : PhysAddr} {la : LinAddr}
    (h : ∀ i < pageBits size, pa.getLsbD i = la.getLsbD i) : inPage size pa la = pa := by
  refine BitVec.eq_of_getLsbD_eq fun i _ => ?_
  rw [getLsbD_inPage]
  split_ifs with hi
  · exact (h i hi).symm
  · rfl

/-- Below bit `k` a value that ends in the low `k` bits of another is that one. -/
theorem getLsbD_append_low {m w k i : Nat} (x : BitVec m) (y : BitVec w) (h : i < k) :
    (x ++ y.extractLsb' 0 k).getLsbD i = y.getLsbD i := by
  simp [BitVec.getLsbD_append, h]

theorem inPage_address4M (pde : Word) (la : LinAddr) : inPage .m4 (address4M pde la) la = address4M pde la :=
  inPage_eq_self fun _ hi => getLsbD_append_low _ la hi

theorem inPage_address4K (pte : Word) (la : LinAddr) : inPage .k4 (address4K pte la) la = address4K pte la :=
  inPage_eq_self fun i (hi : i < 12) => by
    have inside : i < 36 := by omega
    rw [address4K, BitVec.getLsbD_setWidth, decide_eq_true inside, Bool.true_and]
    exact getLsbD_append_low _ la hi

theorem inPage_address2M (top : PhysAddr) (pde : QWord) (la : LinAddr) :
    inPage .m2 (address2M top pde la) la = address2M top pde la :=
  inPage_eq_self fun _ hi => getLsbD_append_low _ la hi

/-- A translation of `la` has a page, in which its address is at the offset of `la`, with the type that the PAT holds
for the page's index. -/
def Translation.Current (tr : Translation) (s : State) (la : LinAddr) : Prop :=
  ∃ v, tr.page = some v ∧ inPage v.size tr.pa la = tr.pa ∧ patType? s.cpu.pat v.idx = some v.pat

/-- Where an operation of a walk answers, its translation is by the PAT as `s` holds it. -/
def Res.FindsCurrent (s : State) (la : LinAddr) : Res Translation → Prop
  | .ok tr _ => tr.Current s la
  | .fault _ => True
  | .refused _ => True

theorem Res.FindsCurrent.of_eq_ok {s t : State} {la : LinAddr} {r : Res Translation} {tr : Translation}
    (h : r.FindsCurrent s la) (e : r = .ok tr t) : tr.Current s la := by
  subst e
  exact h

/-- What precedes a walk's last part does not change the PAT. -/
theorem findsCurrent_bind {α : Type} {s : State} {la : LinAddr} {r : Res α} {k : α → State → Res Translation}
    (h : Framed s r) (hk : ∀ a t, (k a t).FindsCurrent t la) : (r.bind k).FindsCurrent s la := by
  cases r with
  | ok a t =>
    have same : t.cpu.pat = s.cpu.pat := (h : Quiet s t).pat
    have last := hk a t
    show (k a t).FindsCurrent s la
    cases e : k a t with
    | ok tr u =>
      rw [e] at last
      obtain ⟨v, hpage, hpa, hpat⟩ := last
      exact ⟨v, hpage, hpa, same ▸ hpat⟩
    | fault f => trivial
    | refused q => trivial
  | fault f => trivial
  | refused q => trivial

theorem findsCurrent_finishWalk (es : List EntryRef) {size : PageSize} {pa : PhysAddr} (idx : BitVec 3)
    (access : Access) {la : LinAddr} (s : State) (hpa : inPage size pa la = pa) :
    (finishWalk es size pa idx access s).FindsCurrent s la := by
  refine findsCurrent_bind (framed_accessedDirtyUpdates es access true s) fun _ t => ?_
  cases e : patLookup idx t with
  | ok p u => exact ⟨_, rfl, hpa, (patLookup_eq_ok.1 e).1⟩
  | fault f => trivial
  | refused q => trivial

theorem findsCurrent_checkEntry (above : List EntryRef) (e : EntryRef) (reserved : Bool) (access : Access)
    {la : LinAddr} {s : State} {k : State → Res Translation} (h : (k s).FindsCurrent s la) :
    (checkEntry above e reserved access la s k).FindsCurrent s la := by
  have fails (present reserved : Bool) : (failWalk above present reserved access la s).FindsCurrent s la :=
    findsCurrent_bind (framed_accessedDirtyUpdates above access false s) fun _ _ => trivial
  unfold checkEntry
  split_ifs
  · exact fails false false
  · exact fails true true
  · exact fails true false
  · exact h

theorem findsCurrent_walk4M (pde : EntryRef) (access : Access) (la : LinAddr) (s : State) :
    (walk4M pde access la s).FindsCurrent s la :=
  findsCurrent_checkEntry _ _ _ _ (findsCurrent_finishWalk _ _ _ s (inPage_address4M _ la))

theorem findsCurrent_walk4K (pde : EntryRef) (access : Access) (la : LinAddr) (s : State) :
    (walk4K pde access la s).FindsCurrent s la :=
  findsCurrent_checkEntry _ _ _ _ <| findsCurrent_bind (framed_readEntry4 _ _ s) fun _ t =>
    findsCurrent_checkEntry _ _ _ _ (findsCurrent_finishWalk _ _ _ t (inPage_address4K _ la))

theorem findsCurrent_walkPaePte (pdpte pde : EntryRef) (access : Access) (la : LinAddr) (s : State) :
    (walkPaePte pdpte pde access la s).FindsCurrent s la :=
  findsCurrent_bind (framed_readEntry8 _ _ s) fun _ t =>
    findsCurrent_checkEntry _ _ _ _ (findsCurrent_finishWalk _ _ _ t (inPage_inPage _ _ la la))

theorem findsCurrent_walkPaePde (pdpte : EntryRef) (access : Access) (la : LinAddr) (s : State) :
    (walkPaePde pdpte access la s).FindsCurrent s la := by
  refine findsCurrent_bind (framed_readEntry8 _ _ s) fun v t => findsCurrent_checkEntry _ _ _ _ ?_
  split
  · exact findsCurrent_finishWalk _ _ _ t (inPage_address2M _ _ la)
  · exact findsCurrent_walkPaePte _ _ _ la t

/-- A walk that completes gives an address of its page and the type that the PAT holds now (R60, R89). -/
theorem findsCurrent_walk (access : Access) (la : LinAddr) (s : State) : (walk access la s).FindsCurrent s la := by
  unfold walk
  split
  · exact findsCurrent_bind (framed_readEntry8 _ _ s) fun _ t =>
      findsCurrent_checkEntry _ _ _ _ (findsCurrent_walkPaePde _ _ la t)
  · refine findsCurrent_bind (framed_readEntry4 _ _ s) fun v t => ?_
    split
    · exact findsCurrent_walk4M _ _ la t
    · exact findsCurrent_walk4K _ _ la t

/-- Settles O37: the entry is made of the walk's result, whose page holds the address. -/
theorem tlbFillCachesTheWalk : Obligations.TlbFillCachesTheWalk := by
  intro s t access la tr hpg hwalk
  obtain ⟨v, hpage, hpa, hpat⟩ := (findsCurrent_walk access la s).of_eq_ok hwalk
  have htlb : t.cpu.tlb = s.cpu.tlb := ((framed_walk access la s).of_eq_ok hwalk).tlb
  refine ⟨tlbEntryOf la tr v, v, ?_, ?_, hpage, ?_, rfl, rfl, rfl, hpat⟩
  · simp [State.tlbFill, hpg, hwalk, hpage, htlb]
  · simp [TlbEntry.covers, tlbEntryOf, pageStart_pageStart]
  · rw [tlbEntryOf, inPage_inPage, hpa]

/-- What a cached translation can give: its page's address, with its own type or the PAT's now. -/
theorem useTlbEntry_cases {e : TlbEntry} {la : LinAddr} {s t : State} {tr : Translation}
    (h : useTlbEntry e la s = .ok tr t) :
    t = s.drawn ∧ ∃ p, tr = ⟨inPage e.size e.base la, some ⟨e.size, e.idx, p⟩⟩ ∧
      (p = e.pat ∨ patType? s.cpu.pat e.idx = some p) := by
  simp only [useTlbEntry, freeBool, Res.bind_ok] at h
  split at h
  · cases h
    exact ⟨rfl, e.pat, rfl, .inl rfl⟩
  · obtain ⟨p, w, hlookup, h⟩ := Res.bind_eq_ok.1 h
    obtain ⟨hp, rfl⟩ := patLookup_eq_ok.1 hlookup
    cases h
    exact ⟨rfl, p, rfl, .inr hp⟩

/-- With a legal PAT the use of a cached translation completes. -/
theorem useTlbEntry_completes (e : TlbEntry) (la : LinAddr) {s : State} (h : patValueLegal s.cpu.pat = true) :
    ∃ tr t, useTlbEntry e la s = .ok tr t := by
  obtain ⟨p, hp, _⟩ := patType?_of_legal h e.idx
  have hlookup : patLookup e.idx s.drawn = .ok p s.drawn := patLookup_eq_ok.2 ⟨hp, rfl⟩
  simp only [useTlbEntry, freeBool, Res.bind_ok, hlookup]
  split
  · exact ⟨_, _, rfl⟩
  · exact ⟨_, _, rfl⟩

/-- Settles O36: the lookup in a legal PAT answers, whichever type the processor chooses. -/
theorem cachedTranslationHasOldOrNewType : Obligations.CachedTranslationHasOldOrNewType := by
  intro s e la hlegal
  obtain ⟨tr, t, h⟩ := useTlbEntry_completes e la hlegal
  obtain ⟨rfl, p, rfl, hp⟩ := useTlbEntry_cases h
  exact ⟨_, _, _, h, rfl, rfl, rfl, rfl, hp, rfl, rfl⟩

/-- With paging enabled a translation has a page, whose type is the PAT's for its index or that of a cached
translation. -/
theorem translate_page {access : Access} {la : LinAddr} {s t : State} {tr : Translation} (hpg : s.cpu.pg = true)
    (h : translate access la s = .ok tr t) :
    ∃ v, tr.page = some v ∧ (patType? s.cpu.pat v.idx = some v.pat ∨
      ∃ e ∈ s.cpu.tlb, e.covers la = true ∧ v.idx = e.idx ∧ v.pat = e.pat) := by
  rcases translate_cases access la s with ⟨hoff, _⟩ | ⟨_, e⟩ | ⟨_, e⟩ | ⟨_, entry, hmem, hcovers, e⟩
  · rw [hpg] at hoff
    cases hoff
  · obtain ⟨v, hpage, _, hpat⟩ := (findsCurrent_walk access la s).of_eq_ok (e ▸ h)
    exact ⟨v, hpage, .inl hpat⟩
  · obtain ⟨v, hpage, _, hpat⟩ := (findsCurrent_walk access la s.drawn).of_eq_ok (e ▸ h)
    exact ⟨v, hpage, .inl hpat⟩
  · obtain ⟨_, p, rfl, hp⟩ := useTlbEntry_cases (e ▸ h)
    refine ⟨_, rfl, ?_⟩
    rcases hp with hown | hpat
    · exact .inr ⟨entry, hmem, hcovers, rfl, hown⟩
    · exact .inl hpat

/-- The effective type does not look at the caches, which are all a quiet change may alter of the processor. -/
theorem Quiet.effectiveType? {s t : State} (q : Quiet s t) (pa : PhysAddr) (page : Option PatType) :
    Machine.effectiveType? t.cpu pa page = Machine.effectiveType? s.cpu pa page := by
  rw [q.cpu]
  rfl

/-- With no live older value of the PAT an access is made through its translation's own page. -/
theorem accessPage_of_none_live (page : Option PageView) {s : State} (h : s.cpu.livePats = []) :
    accessPage page s = .ok page s := by
  cases page with
  | none => rfl
  | some v => simp [accessPage, accessPat_of_none_live h]

/-- The first part of an access is made by the first translation, with the effective type formed there. -/
theorem accessParts_first {access : Access} {n fuel : Nat} {la : LinAddr} {s t u : State} {tr : Translation}
    {p : Part} {ps : List Part} (htr : translate access la s = .ok tr t) (hlive : s.cpu.livePats = [])
    (h : accessParts access fuel la n s = .ok (p :: ps) u) :
    p.la = la ∧ p.pa = tr.pa ∧ effectiveType? s.cpu tr.pa (tr.page.map (·.pat)) = some p.type := by
  have q : Quiet s t := (framed_translate access la s).of_eq_ok htr
  have hlive' : t.cpu.livePats = [] := by rw [← hlive, q.cpu]; rfl
  cases fuel with
  | zero => cases h
  | succ fuel =>
    simp only [accessParts] at h
    split at h
    · cases h
    simp only [htr, Res.bind_ok, accessPage_of_none_live _ hlive'] at h
    obtain ⟨ty, w, htype, h⟩ := Res.bind_eq_ok.1 h
    obtain ⟨rest, x, _, h⟩ := Res.bind_eq_ok.1 h
    cases h
    obtain ⟨hty, _⟩ := effectiveType_eq_ok.1 htype
    exact ⟨rfl, rfl, (q.effectiveType? _ _).symm.trans hty⟩

/-- Settles O38: the type of the translation's page is what R63 combines with the MTRR type. -/
theorem pagedAccessLooksUpPat : Obligations.PagedAccessLooksUpPat := by
  intro s t access la tr hpg htr
  obtain ⟨v, hpage, hfrom⟩ := translate_page hpg htr
  have q : Quiet s t := (framed_translate access la s).of_eq_ok htr
  refine ⟨v, hpage, hfrom, fun hen hcd hnw => ?_⟩
  have type (pa : PhysAddr) :
      effectiveType? s.cpu pa (tr.page.map (·.pat)) = some (table92 v.pat (mtrrTypeAt s.cpu pa)) := by
    simp [effectiveType?, hen, hcd, hnw, hpage]
  refine ⟨fun pa => effectiveType_eq_ok.2 ⟨(q.effectiveType? _ _).trans (type pa), rfl⟩,
    fun holder n p ps u hparts => ?_⟩
  obtain ⟨hla, hpa, hty⟩ := accessParts_first htr (livePats_eq_nil holder) hparts
  exact ⟨hla, hpa, Option.some.inj (hty.symm.trans (type tr.pa))⟩

end Sys2Proof.Machine
end

section
/-! Flushed and dropped copies (spec/10_state.md R29, R30; spec/20_memory.md R77; log 23, log 25). -/

namespace Sys2Proof.Machine

open Sys2Proof

/-- Writing back brings memory each byte it had not received, where there is one copy of a byte. -/
theorem writeBack_read_dirty {ls : List CacheLine} (m : Memory) {l : CacheLine}
    (hunique : (ls.map (·.addr)).Nodup) (hl : l ∈ ls) (hdirty : l.dirty = true) :
    (writeBack m ls).read l.addr.toNat = some l.byte := by
  induction ls generalizing m with
  | nil => cases hl
  | cons k ks ih =>
    obtain ⟨hk, hks⟩ := List.nodup_cons.1 hunique
    rcases List.mem_cons.1 hl with rfl | hl
    · have others : ∀ j ∈ ks, j.dirty = true → j.addr.toNat ≠ l.addr.toNat := fun j hj _ heq =>
        hk (List.mem_map.2 ⟨j, hj, BitVec.eq_of_toNat_eq heq⟩)
      rw [writeBack, if_pos hdirty, writeBack_read_other _ _ _ others, Memory.read_write_same]
    · rw [writeBack]
      split
      · exact ih _ hks hl
      · exact ih _ hks hl

theorem remapsFrame_iff {m f : MappedFrame} :
    m.remapsFrame f = true ↔ m.idx ≠ f.idx ∧ (m.reaches f.base = true ∨ f.reaches m.base = true) := by
  simp [MappedFrame.remapsFrame]

theorem State.mem_flushCaches_cacheable {s : State} {f : MappedFrame} :
    f ∈ s.flushCaches.cpu.cacheable ↔
      f ∈ s.cpu.cacheable ∧ ∀ m ∈ s.remaps,
        ¬(m.idx ≠ f.idx ∧ (m.reaches f.base = true ∨ f.reaches m.base = true)) := by
  simp only [State.flushCaches_cacheable, List.mem_filter, Bool.not_eq_true', List.any_eq_false, remapsFrame_iff]

theorem State.mem_flushCaches_remaps {s : State} {m : MappedFrame} :
    m ∈ s.flushCaches.remaps ↔
      m ∈ s.remaps ∧ ∃ c ∈ s.others, ∃ f ∈ c.cacheable,
        m.idx ≠ f.idx ∧ (m.reaches f.base = true ∨ f.reaches m.base = true) := by
  simp only [State.flushCaches_remaps, List.mem_filter, List.any_eq_true, remapsFrame_iff]

@[simp] theorem State.cached?_dropLine_same (s : State) (pa : PhysAddr) : (s.dropLine pa).cpu.cached? pa = none := by
  simp [Cpu.cached?]

theorem State.cached?_dropLine_other (s : State) {pa b : PhysAddr} (h : b ≠ pa) :
    (s.dropLine pa).cpu.cached? b = s.cpu.cached? b := by
  have same : ∀ l : CacheLine,
      decide (((l.addr != pa) = true) ∧ ((l.addr == b) = true)) = (l.addr == b) := by
    intro l
    by_cases hl : l.addr = b <;> simp [hl, h]
  simp only [Cpu.cached?, State.dropLine_cache, List.find?_filter, same]

/-- What dropping the copy of a byte does: with a copy that memory has not received, memory receives it; the copy
is gone. -/
theorem State.cacheDrop_cases (s : State) (pa : PhysAddr) :
    (∃ l, s.cpu.cached? pa = some l ∧ l.dirty = true ∧ s.cacheDrop pa = (s.setByte pa l.byte).dropLine pa) ∨
    (∃ l, s.cpu.cached? pa = some l ∧ l.dirty = false ∧ s.cacheDrop pa = s.dropLine pa) ∨
    (s.cpu.cached? pa = none ∧ s.cacheDrop pa = s) := by
  unfold State.cacheDrop
  cases hc : s.cpu.cached? pa with
  | none => exact .inr (.inr ⟨rfl, rfl⟩)
  | some l =>
    cases hd : l.dirty with
    | true => exact .inl ⟨l, rfl, hd, by simp [hd]⟩
    | false => exact .inr (.inl ⟨l, rfl, hd, by simp [hd]⟩)

/-- A dropped copy leaves no copy of its byte. -/
theorem State.cached?_cacheDrop_same (s : State) (pa : PhysAddr) : (s.cacheDrop pa).cpu.cached? pa = none := by
  rcases s.cacheDrop_cases pa with ⟨l, _, _, e⟩ | ⟨l, _, _, e⟩ | ⟨hnone, e⟩ <;> rw [e]
  · exact State.cached?_dropLine_same _ pa
  · exact State.cached?_dropLine_same s pa
  · exact hnone

theorem State.cached?_cacheDrop_other (s : State) {pa b : PhysAddr} (h : b ≠ pa) :
    (s.cacheDrop pa).cpu.cached? b = s.cpu.cached? b := by
  rcases s.cacheDrop_cases pa with ⟨l, _, _, e⟩ | ⟨l, _, _, e⟩ | ⟨_, e⟩ <;> rw [e]
  · exact State.cached?_dropLine_other (s.setByte pa l.byte) h
  · exact State.cached?_dropLine_other s h

/-- A dropped copy that memory had not received is in memory. -/
theorem State.cacheDrop_read_dirty {s : State} {pa : PhysAddr} {l : CacheLine} (hl : s.cpu.cached? pa = some l)
    (hdirty : l.dirty = true) : (s.cacheDrop pa).mem.read pa.toNat = some l.byte := by
  simp [State.cacheDrop, hl, hdirty]

/-- Dropping what memory has received, or nothing, leaves memory as it is. -/
theorem State.cacheDrop_mem_of_clean {s : State} {pa : PhysAddr}
    (h : ∀ l, s.cpu.cached? pa = some l → l.dirty = false) : (s.cacheDrop pa).mem = s.mem := by
  rcases s.cacheDrop_cases pa with ⟨l, hl, hdirty, _⟩ | ⟨l, _, _, e⟩ | ⟨_, e⟩
  · rw [h l hl] at hdirty
    cases hdirty
  · rw [e, State.dropLine_mem]
  · rw [e]

theorem State.cacheDrop_read_other (s : State) {pa : PhysAddr} {a : Nat} (h : a ≠ pa.toNat) :
    (s.cacheDrop pa).mem.read a = s.mem.read a := by
  rcases s.cacheDrop_cases pa with ⟨l, _, _, e⟩ | ⟨l, _, _, e⟩ | ⟨_, e⟩ <;> rw [e]
  · exact s.mem.read_write_other _ h
  · rfl

theorem State.cacheDrop_others (s : State) (pa : PhysAddr) : (s.cacheDrop pa).others = s.others := by
  rcases s.cacheDrop_cases pa with ⟨l, _, _, e⟩ | ⟨l, _, _, e⟩ | ⟨_, e⟩ <;> rw [e] <;> rfl

/-- Settles O41: each dirty byte reaches memory at its own address, of which there is one copy. -/
theorem flushesAndDropsWriteBack : Obligations.FlushesAndDropsWriteBack := by
  refine ⟨fun s hsound => ?_, fun s pa => ?_, fun s k => ?_⟩
  · obtain ⟨_, _, hunique⟩ := Cpu.sound_iff.1 hsound
    exact ⟨s.flushCaches, rfl, rfl, fun l hl hdirty => writeBack_read_dirty s.mem hunique hl hdirty,
      fun a ha => writeBack_read_other _ _ a ha, rfl, rfl, fun _ => State.mem_flushCaches_cacheable,
      fun _ => State.mem_flushCaches_remaps⟩
  · have q := s.cacheDrop_quiet pa
    exact ⟨s.cacheDrop pa, rfl, s.cached?_cacheDrop_same pa, fun _ hb => s.cached?_cacheDrop_other hb,
      fun _ hl hdirty => State.cacheDrop_read_dirty hl hdirty, State.cacheDrop_mem_of_clean,
      fun _ ha => s.cacheDrop_read_other ha, q.sameRegisters, q.tlb, s.cacheDrop_others pa, q.stored⟩
  · have same : s.cpu.sameRegisters s.cpu := (Quiet.refl s).sameRegisters
    exact ⟨_, rfl, rfl, rfl, rfl, same, rfl, rfl⟩

end Sys2Proof.Machine
end

section
/-! The fetch with paging disabled (spec/10_state.md R12; spec/20_memory.md R38, R78; spec/30_encoding.md R84). -/

namespace Sys2Proof.Machine

open Sys2Proof

/-- A byte that memory holds and no cache has a copy of is read; of another such byte no copy comes into being, and
the state changes only under a type that is cacheable for reads. -/
theorem readByte_holdsAt {s : State} {pa : PhysAddr} {b : Byte} (ty : EffType) (h : s.holdsAt pa b) :
    ∃ t, readByte pa ty s = .ok b t ∧ (∀ a c, a ≠ pa → s.holdsAt a c → t.holdsAt a c) ∧
      (ty.properties.cacheableReads = false → t = s) := by
  obtain ⟨hback, hread, hnone⟩ := h
  cases hty : ty.properties.cacheableReads with
  | false => exact ⟨s, readByte_uncached hback hnone hty hread, fun _ _ _ ha => ha, fun _ => rfl⟩
  | true =>
    rcases readByte_uncached_cacheable hback hnone hty hread with e | e
    · exact ⟨_, e, fun _ _ _ ha => ha, fun hf => nomatch hf⟩
    · refine ⟨_, e, fun a c hne ⟨back, read, nocopy⟩ => ⟨back, read, fun d hd => ?_⟩, fun hf => nomatch hf⟩
      rcases List.mem_cons.1 hd with rfl | hd
      · have kept := (State.cached?_dropLine_other s hne).trans (nocopy s.cpu List.mem_cons_self)
        exact (List.find?_cons_of_neg (by simpa using Ne.symm hne)).trans kept
      · exact nocopy d (List.mem_cons_of_mem _ hd)

/-- Two bytes that memory holds and no cache has copies of are read. -/
theorem physRead_two {s : State} {pa : PhysAddr} {b0 b1 : Byte} (ty : EffType) (h0 : s.holdsAt pa b0)
    (h1 : s.holdsAt (pa + 1#36) b1) :
    ∃ t, physRead pa 2 ty s = .ok [b0, b1] t ∧ (ty.properties.cacheableReads = false → t = s) := by
  have next_ne : pa + 1#36 ≠ pa := by simp
  obtain ⟨t, e0, kept, same0⟩ := readByte_holdsAt ty h0
  obtain ⟨u, e1, _, same1⟩ := readByte_holdsAt ty (kept _ _ next_ne h1)
  exact ⟨u, by simp [physRead, e0, e1], fun hf => (same1 hf).trans (same0 hf)⟩

/-- The byte `b` at linear address `a` can be fetched with paging disabled: it is in memory and in no cache, the
program did not store it, and no access to it is undefined. -/
structure State.Fetchable (s : State) (a : LinAddr) (b : Byte) : Prop where
  holds : s.holdsAt (a.setWidth 36) b
  notStored : (a.setWidth 36 : PhysAddr).toNat ∉ s.stored
  defined : undefinedAt s none (a.setWidth 36) = false

/-- Below the last linear address the next one is at the next physical address. -/
theorem setWidth_next {pc : Word} (h : pc ≠ 0xFFFFFFFF#32) :
    ((pc + 1#32).setWidth 36 : PhysAddr) = pc.setWidth 36 + 1#36 := by
  bv_omega

theorem physSpan_two (pa : PhysAddr) : physSpan pa 2 = [pa, pa + 1#36] := by
  simp [physSpan, List.range_succ]

/-- With paging disabled a fetch below the last linear address has one part. -/
theorem fetchParts_paging_off {s : State} {ty : EffType} {b0 b1 : Byte} (hpg : s.cpu.pg = false)
    (hpc : s.cpu.pc ≠ 0xFFFFFFFF#32) (hty : effectiveType? s.cpu (s.cpu.pc.setWidth 36) none = some ty)
    (h0 : s.Fetchable s.cpu.pc b0) (h1 : s.Fetchable (s.cpu.pc + 1#32) b1) :
    fetchParts s = .ok [⟨s.cpu.pc, s.cpu.pc.setWidth 36, ty, 2, false⟩] s := by
  have both : bytesInPage ⟨s.cpu.pc.setWidth 36, none⟩ s.cpu.pc 2 = 2 := by
    have : s.cpu.pc.toNat + 2 ≤ 2 ^ 32 := by bv_omega
    exact Nat.min_eq_left (by omega)
  have defined : undefinedAccess s s.cpu.pc (s.cpu.pc.setWidth 36) 2 none ty = false := by
    simp [undefinedAccess, physSpan_two, h0.defined, ← setWidth_next hpc, h1.defined]
  have hlast : effectiveType (s.cpu.pc.setWidth 36) none s = .ok ty s := effectiveType_eq_ok.2 ⟨hty, rfl⟩
  simp only [fetchParts, if_neg hpc, instrLength, accessParts, translate_paging_off hpg, accessPage, Res.bind_ok,
    Option.map_none, hlast, both, defined]
  rfl

/-- With paging disabled the instruction in the two bytes at `pc` is fetched; memory is as it was, and all of the
state is where the type is not cacheable for reads. -/
theorem fetchInstr_paging_off {s : State} {ty : EffType} {b0 b1 : Byte} {i : Instr} (hpg : s.cpu.pg = false)
    (hpc : s.cpu.pc ≠ 0xFFFFFFFF#32) (hty : effectiveType? s.cpu (s.cpu.pc.setWidth 36) none = some ty)
    (h0 : s.Fetchable s.cpu.pc b0) (h1 : s.Fetchable (s.cpu.pc + 1#32) b1) (hdec : decode [b0, b1] = .ok (i, [])) :
    ∃ t, fetchInstr s = .ok i t ∧ t.mem = s.mem ∧ (ty.properties.cacheableReads = false → t = s) := by
  have second : s.holdsAt (s.cpu.pc.setWidth 36 + 1#36) b1 := setWidth_next hpc ▸ h1.holds
  obtain ⟨t, hread, same⟩ := physRead_two ty h0.holds second
  have notStored : firstStored s [⟨s.cpu.pc, s.cpu.pc.setWidth 36, ty, 2, false⟩] = none := by
    have n0 := h0.notStored
    have n1 := h1.notStored
    rw [setWidth_next hpc] at n1
    simp only [firstStored, List.flatMap_cons, List.flatMap_nil, List.append_nil, Part.addresses, Part.physAddrs,
      physSpan_two, List.map_cons, List.map_nil, List.find?_eq_none, List.forall_mem_cons, List.contains_iff_mem]
    exact ⟨n0, n1, fun _ hmem => nomatch hmem⟩
  refine ⟨t, ?_, physRead_mem hread, same⟩
  simp [fetchInstr, fetchBytes, fetchParts_paging_off hpg hpc hty h0 h1, notStored, readParts, readPart, hread, hdec]

/-- Where CR0 and MTRRDefType give an access a type (R65), they do with paging disabled (R69), and it is UC with CD = 1
or the MTRRs disabled. -/
theorem effectiveType?_paging_off {c : Cpu} (pa : PhysAddr)
    (h : c.mtrrEnabled = false ∨ c.cd = true ∨ c.nw = false) :
    ∃ ty, effectiveType? c pa none = some ty ∧
      (c.mtrrEnabled = false ∨ c.cd = true → ty.properties.cacheableReads = false) := by
  cases hen : c.mtrrEnabled with
  | false => exact ⟨.uc, by simp [effectiveType?, hen], fun _ => rfl⟩
  | true =>
    cases hcd : c.cd with
    | true => exact ⟨.uc, by simp [effectiveType?, hen, hcd], fun _ => rfl⟩
    | false =>
      have hnw : c.nw = false := by simpa [hen, hcd] using h
      exact ⟨_, by simp only [effectiveType?, hen, hcd, hnw]; rfl, fun hf => by simp at hf⟩

/-- A byte can be fetched after the beginning of a step where memory and the caches stood so before it. -/
theorem fetchable_nextTurn {s : State} {a : LinAddr} {b : Byte} (hread : s.mem.read a.toNat = some b)
    (hback : s.platform.backing? a.toNat = some .memory) (hstored : a.toNat ∉ s.stored)
    (hdef : undefinedAt s.nextTurn none (a.setWidth 36) = false)
    (hnone : ∀ c ∈ s.cpu :: s.others, c.cached? (a.setWidth 36) = none) : s.nextTurn.Fetchable a b := by
  have number : (a.setWidth 36 : PhysAddr).toNat = a.toNat := by
    rw [BitVec.toNat_setWidth, Nat.mod_eq_of_lt (by omega)]
  refine ⟨⟨?_, ?_, fun c hc => ?_⟩, ?_, hdef⟩
  · rwa [number]
  · rwa [number]
  · rw [State.nextTurn_processors] at hc
    obtain ⟨d, hd, rfl⟩ := List.mem_map.1 hc
    rw [Cpu.cached?, Cpu.noteCacheable_cache]
    exact hnone d hd
  · rwa [number]

/-- Settles O51: with paging disabled the two bytes at `pc` are one part of an access at their own addresses; at the
last linear address the fetch begins with its refusal. -/
theorem stepWithPagingDisabled : Obligations.StepWithPagingDisabled := by
  refine ⟨fun s b0 b1 i hdue hpg hpc hcc hdec hbytes => ?_, fun s hdue hpc => ?_⟩
  · have hpg' : s.nextTurn.cpu.pg = false := by simpa [Cpu.pg] using hpg
    have hpc' : s.nextTurn.cpu.pc = s.cpu.pc := by simp
    have hflags : s.nextTurn.cpu.mtrrEnabled = s.cpu.mtrrEnabled ∧ s.nextTurn.cpu.cd = s.cpu.cd ∧
        s.nextTurn.cpu.nw = s.cpu.nw := by simp [Cpu.mtrrEnabled, Cpu.cd, Cpu.nw]
    obtain ⟨hen', hcd', hnw'⟩ := hflags
    obtain ⟨read0, back0, stored0, def0, none0⟩ := hbytes _ _ (.inl rfl)
    obtain ⟨read1, back1, stored1, def1, none1⟩ := hbytes _ _ (.inr rfl)
    have h0 : s.nextTurn.Fetchable s.nextTurn.cpu.pc b0 :=
      hpc' ▸ fetchable_nextTurn read0 back0 stored0 def0 none0
    have h1 : s.nextTurn.Fetchable (s.nextTurn.cpu.pc + 1#32) b1 :=
      hpc' ▸ fetchable_nextTurn read1 back1 stored1 def1 none1
    obtain ⟨ty, hty, huc⟩ := effectiveType?_paging_off (c := s.nextTurn.cpu) (s.nextTurn.cpu.pc.setWidth 36)
      (by rwa [hen', hcd', hnw'])
    obtain ⟨t, hfetch, hmem, same⟩ := fetchInstr_paging_off hpg' (hpc' ▸ hpc) hty h0 h1 hdec
    have q : Quiet s.nextTurn t := (framed_fetchInstr s.nextTurn).of_eq_ok hfetch
    refine ⟨t, step_of_fetch hdue hfetch, sameRegisters_of_fetch hfetch, by simp [q.tlb], hmem, q.pending,
      fun hallUc => same (huc ?_)⟩
    rwa [hen', hcd']
  · have hpc' : s.nextTurn.cpu.pc = 0xFFFFFFFF#32 := by simpa using hpc
    have hparts : fetchParts s.nextTurn = .refused .fetchWraps := if_pos hpc'
    simp [step_of_due hdue, runInstr, fetchInstr, fetchBytes, hparts]

end Sys2Proof.Machine
end

section
/-! The formats of the PAT index, of the entries and of addresses, and the memory types (spec/10_state.md R23 to R26;
spec/20_memory.md R37 to R64). -/

namespace Sys2Proof.Machine

open Sys2Proof

/-- A value above another one, as numbers: there is no carry. -/
theorem toNat_append_eq_add {m n : Nat} (x : BitVec m) (y : BitVec n) :
    (x ++ y).toNat = x.toNat * 2 ^ n + y.toNat := by
  rw [BitVec.toNat_append, ← Nat.shiftLeft_add_eq_or_of_lt y.isLt, Nat.shiftLeft_eq]

/-- The `n` bits from bit `k` on, as a number. -/
theorem toNat_extractLsb'_eq {w : Nat} (x : BitVec w) (k n : Nat) :
    (x.extractLsb' k n).toNat = x.toNat / 2 ^ k % 2 ^ n := by
  rw [BitVec.extractLsb'_toNat, Nat.shiftRight_eq_div_pow]

/-- Bits that end at the top of a word need no cut above. -/
theorem toNat_extractLsb'_top {w : Nat} (x : BitVec w) {k n : Nat} (h : w ≤ k + n) :
    (x.extractLsb' k n).toNat = x.toNat / 2 ^ k := by
  rw [toNat_extractLsb'_eq, Nat.mod_eq_of_lt]
  rw [Nat.div_lt_iff_lt_mul (Nat.two_pow_pos k), ← Nat.pow_add, Nat.add_comm]
  exact x.isLt.trans_le (Nat.pow_le_pow_right (by omega) h)

/-- The directory entry's address as a number (R43). -/
theorem toNat_pdeAddress (cr3 : Word) (la : LinAddr) :
    (pdeAddress cr3 la).toNat = cr3.toNat / 2 ^ 12 * 2 ^ 12 + 4 * (la.toNat / 2 ^ 22) := by
  have hcr3 := cr3.isLt
  have hla := la.isLt
  have base := toNat_extractLsb'_top cr3 (k := 12) (n := 20) (by omega)
  have index := toNat_extractLsb'_top la (k := 22) (n := 10) (by omega)
  rw [pdeAddress, BitVec.toNat_setWidth]
  simp only [toNat_append_eq_add, base, index, BitVec.toNat_ofNat]
  omega

/-- Settles O19: the base, the index and two zero bits side by side. -/
theorem pdeAddressIsBasePlusIndex : Obligations.PdeAddressIsBasePlusIndex := by
  intro cr3 la
  have hcr3 := cr3.isLt
  have hla := la.isLt
  rw [toNat_pdeAddress]
  omega

/-- Settles O20: PA-2, PA-1 and the offset side by side. -/
theorem largePageAddressIsSum : Obligations.LargePageAddressIsSum := by
  intro pde la
  have pa1 := toNat_extractLsb'_top pde (k := 22) (n := 10) (by omega)
  simp only [address4M, toNat_append_eq_add, pa1, toNat_extractLsb'_eq, Nat.pow_zero, Nat.div_one]
  omega

/-- Settles O21: the sum without its first term. -/
theorem zeroPa2TranslatesAsBefore : Obligations.ZeroPa2TranslatesAsBefore := by
  intro pde la h
  have hpde := pde.isLt
  have pa2 : pde.toNat / 2 ^ 13 % 2 ^ 4 = 0 := by rw [← toNat_extractLsb'_eq, h]; rfl
  rw [largePageAddressIsSum pde la, pa2]
  omega

/-- The present 4 MB entry with PS = 1 whose PA-2 and PA-1 are those of `base` (R44, R45). -/
def largeEntryFor (base : PhysAddr) : Word :=
  base.extractLsb' 22 10 ++ 0#5 ++ base.extractLsb' 32 4 ++ 0x81#13

theorem toNat_largeEntryFor (base : PhysAddr) :
    (largeEntryFor base).toNat =
      base.toNat / 2 ^ 22 % 2 ^ 10 * 2 ^ 22 + base.toNat / 2 ^ 32 * 2 ^ 13 + 0x81 := by
  have top := toNat_extractLsb'_top base (k := 32) (n := 4) (by omega)
  simp only [largeEntryFor, toNat_append_eq_add, top, toNat_extractLsb'_eq, BitVec.toNat_ofNat]
  omega

/-- The fields of the entry as numbers: PA-1, zeros in bits 21:17, PA-2. -/
theorem largeEntryFor_fields (base : PhysAddr) :
    (largeEntryFor base).toNat / 2 ^ 22 = base.toNat / 2 ^ 22 % 2 ^ 10 ∧
      (largeEntryFor base).toNat / 2 ^ 17 % 2 ^ 5 = 0 ∧
      (largeEntryFor base).toNat / 2 ^ 13 % 2 ^ 4 = base.toNat / 2 ^ 32 := by
  have hpa1 : base.toNat / 2 ^ 22 % 2 ^ 10 < 2 ^ 10 := Nat.mod_lt _ (by decide)
  have hpa2 : base.toNat / 2 ^ 32 < 2 ^ 4 := by omega
  rw [toNat_largeEntryFor]
  generalize base.toNat / 2 ^ 22 % 2 ^ 10 = pa1 at *
  generalize base.toNat / 2 ^ 32 = pa2 at *
  omega

/-- Settles O22: the entry made of the page's own address bits. -/
theorem everyLargePageHasAnEntry : Obligations.EveryLargePageHasAnEntry := by
  intro base haligned
  obtain ⟨pa1, zeros, pa2⟩ := largeEntryFor_fields base
  have unreserved : (largeEntryFor base).extractLsb' 17 5 = 0#5 :=
    BitVec.eq_of_toNat_eq ((toNat_extractLsb'_eq _ _ _).trans zeros)
  refine ⟨largeEntryFor base, by simp only [largeEntryFor, BitVec.getLsbD_append]; rfl,
    by simp only [largeEntryFor, BitVec.getLsbD_append]; rfl, by simp [reserved4M, unreserved], fun la => ?_⟩
  rw [largePageAddressIsSum, pa1, pa2]
  omega

/-- Bits that are cleared do not see whether they were turned over. -/
theorem xor_and_not {w : Nat} (e m : BitVec w) : (e ^^^ m) &&& ~~~m = e &&& ~~~m := by
  refine BitVec.eq_of_getLsbD_eq fun i hi => ?_
  cases h : m.getLsbD i <;> simp [h]

theorem withoutPatIndex_pte_flip (large : Bool) (e : QWord) :
    withoutPatIndex .pte large (e ^^^ 0x80#64) = withoutPatIndex .pte large e := xor_and_not e _

theorem withoutPatIndex_pde_flip (e : QWord) :
    withoutPatIndex .pde true (e ^^^ 0x1000#64) = withoutPatIndex .pde true e := xor_and_not e _

/-- Bit 12 is not the PS bit. -/
theorem pdePs_flip (e : QWord) : pdePs (e ^^^ 0x1000#64) = pdePs e := by
  simp [pdePs]

/-- Bits among which no bit was turned over are as they were. -/
theorem extractLsb'_xor_of_zero {w : Nat} (e m : BitVec w) {k n : Nat} (h : m.extractLsb' k n = 0#n) :
    (e ^^^ m).extractLsb' k n = e.extractLsb' k n := by
  rw [BitVec.extractLsb'_xor, h, BitVec.xor_zero]

/-- The index's top bit is bit 12 of the entry (R57). -/
theorem largeIndex_flip (pde : Word) :
    largeIndex ((pde ^^^ 0x1000#32).setWidth 64) = largeIndex (pde.setWidth 64) ^^^ 4#3 := by
  have top (pati pcd pwt : Bool) : patIndex (!pati) pcd pwt = patIndex pati pcd pwt ^^^ 4#3 := by
    revert pati pcd pwt
    decide
  rw [largeIndex, largeIndex, ← top]
  simp [entryPcd, entryPwt]

/-- Settles O23: the tests look at other bits, or at the entry with the index bit cleared. -/
theorem patBitIsNotReserved : Obligations.PatBitIsNotReserved := by
  refine ⟨fun pde la => ⟨?_, ?_, largeIndex_flip pde⟩, fun s e la access => ⟨?_, ?_, ?_, fun hps => ?_,
    fun hps hmode => ?_⟩⟩
  · rw [reserved4M, extractLsb'_xor_of_zero pde _ (by decide), ← reserved4M]
  · rw [address4M, extractLsb'_xor_of_zero pde _ (by decide), extractLsb'_xor_of_zero pde _ (by decide),
      ← address4M]
  · rw [reserved2M, extractLsb'_xor_of_zero e _ (by decide), ← reserved2M]
  · simp only [paeReserved, withoutPatIndex_pte_flip]
    rfl
  · simp only [permitted, withoutPatIndex_pte_flip]
    rfl
  · have hps' : pdePs e = true := hps
    simp only [paeReserved, pdePs_flip, hps', withoutPatIndex_pde_flip]
  · have hlarge : s.cpu.largePde e = true := by
      rcases hmode with h | h <;> simp [Cpu.largePde, h, pdePs, hps]
    have hlarge' : s.cpu.largePde (e ^^^ 0x1000#64) = true := by rw [Cpu.largePde, pdePs_flip, ← Cpu.largePde, hlarge]
    simp only [permitted, hlarge, hlarge', withoutPatIndex_pde_flip]

/-- An entry with PCD and PWT as the low bits of `idx`, PAT_i in bit `patBit` as its top bit, and the bits of
`rest`. -/
def entryWithIndex (patBit : Nat) (rest : QWord) (idx : BitVec 3) : QWord :=
  (idx.extractLsb' 0 2).setWidth 64 <<< 3 ||| (idx.extractLsb' 2 1).setWidth 64 <<< patBit ||| rest

theorem pteIndex_entryWithIndex : ∀ idx, pteIndex (entryWithIndex 7 0#64 idx) = idx := by decide

theorem largeIndex_entryWithIndex :
    ∀ idx, pdePs (entryWithIndex 12 0x80#64 idx) = true ∧ largeIndex (entryWithIndex 12 0x80#64 idx) = idx := by
  decide

/-- Settles O13: the index is three bits side by side; the rows of Table 9-1 are evaluated. -/
theorem patIndexFollowsTable91 : Obligations.PatIndexFollowsTable91 :=
  ⟨by decide, fun _ _ => rfl, by decide, fun _ => ⟨rfl, rfl⟩,
    fun idx => ⟨⟨_, pteIndex_entryWithIndex idx⟩, ⟨_, largeIndex_entryWithIndex idx⟩⟩⟩

/-- Settles O14: the reset value repeats the types of PCD and PWT in its upper four fields. -/
theorem resetPatIsBackwardCompatible : Obligations.ResetPatIsBackwardCompatible := by
  unfold Obligations.ResetPatIsBackwardCompatible
  decide

/-- The encodings that stand for no PAT type (R61). -/
theorem ofEncoding?_eq_none {b : Byte} :
    PatType.ofEncoding? b = none ↔ b.toNat = 2 ∨ b.toNat = 3 ∨ 8 ≤ b.toNat := by
  simp only [PatType.ofEncoding?, ← BitVec.toNat_inj, BitVec.toNat_ofNat]
  split_ifs <;> simp <;> omega

/-- The encodings that stand for no MTRR type: 7 is one of them (R25). -/
theorem mtrrOfEncoding?_eq_none {b : Byte} :
    MtrrType.ofEncoding? b = none ↔ b.toNat = 2 ∨ b.toNat = 3 ∨ 7 ≤ b.toNat := by
  simp only [MtrrType.ofEncoding?, ← BitVec.toNat_inj, BitVec.toNat_ofNat]
  split_ifs <;> simp <;> omega

/-- Settles O15: a byte is the encoding it decodes from, and the two tables differ at 7 alone. -/
theorem patEncodings : Obligations.PatEncodings :=
  ⟨rfl, fun _ _ => ofEncoding?_eq_some.trans eq_comm, fun _ => ofEncoding?_eq_none, by decide,
    fun _ => mtrrOfEncoding?_eq_none⟩

/-- Settles O16: the table, row by row. -/
theorem effectiveTypeTable : Obligations.EffectiveTypeTable := ⟨rfl, rfl, rfl, rfl, rfl, rfl⟩

/-- The cells of Table 9-2 that read "Undefined" are the open parameter (R67). -/
theorem table92_undefined (p : PatType) (m : MtrrType)
    (h : (p, m) ∈ [(PatType.ucMinus, MtrrType.wp), (.wt, .wc), (.wt, .wp), (.wp, .wc), (.wp, .wt)]) :
    table92 p m = Config.undefEffType p m := by
  simp only [List.mem_cons, Prod.mk.injEq, List.not_mem_nil, or_false] at h
  rcases h with ⟨rfl, rfl⟩ | ⟨rfl, rfl⟩ | ⟨rfl, rfl⟩ | ⟨rfl, rfl⟩ | ⟨rfl, rfl⟩ <;> rfl

/-- With paging disabled the effective type is the MTRR type (R69). -/
theorem ofMtrr_eq (m : MtrrType) (e : EffType)
    (h : (m, e) ∈ [(MtrrType.uc, EffType.ucMtrr), (.wc, .wc), (.wt, .wt), (.wp, .wp), (.wb, .wb)]) :
    EffType.ofMtrr m = e := by
  simp only [List.mem_cons, Prod.mk.injEq, List.not_mem_nil, or_false] at h
  rcases h with ⟨rfl, rfl⟩ | ⟨rfl, rfl⟩ | ⟨rfl, rfl⟩ | ⟨rfl, rfl⟩ | ⟨rfl, rfl⟩ <;> rfl

/-- Settles O17: the tests of R63 in their order. -/
theorem effectiveTypeByCacheFlags : Obligations.EffectiveTypeByCacheFlags := by
  refine ⟨table92_undefined, fun c pa page h => ?_, fun s pa page h => ?_⟩
  · have hen : c.mtrrEnabled = false := h
    simp [effectiveType?, hen]
  have hen : s.cpu.mtrrEnabled = true := h
  refine ⟨fun h => ?_, fun h k => ?_, fun h k => ?_⟩
  · have hcd : s.cpu.cd = true := h
    simp [effectiveType, effectiveType?, hen, hcd]
  · have hcd : s.cpu.cd = false := h
    have hnw : s.cpu.nw = true := k
    simp [effectiveType, effectiveType?, hen, hcd, hnw]
  · have hcd : s.cpu.cd = false := h
    have hnw : s.cpu.nw = false := k
    refine ⟨fun p => by simp [effectiveType, effectiveType?, hen, hcd, hnw], fun m e hme hm => ?_⟩
    simp [effectiveType, effectiveType?, hen, hcd, hnw, hm, ofMtrr_eq m e hme]

/-- Settles O18: one row of Table 3-1 for each combination of the flags. -/
theorem pagingModeTable : Obligations.PagingModeTable := by
  refine ⟨by decide, by decide, rfl, fun m hm => ?_⟩
  cases m with
  | m4Phys36 => exact absurd rfl hm
  | disabled | k4Phys32 | k4Phys36 | m2Phys36 => rfl

/-- The index of a structure, from PCD and PWT, is below 4. -/
theorem toNat_patIndex_false (pcd pwt : Bool) :
    (patIndex false pcd pwt).toNat = 2 * pcd.toNat + pwt.toNat ∧ (patIndex false pcd pwt).toNat < 4 := by
  revert pcd pwt
  decide

/-- Settles O24: no bit of an entry is the top bit of a structure's index. -/
theorem structuresUseFirstFourPatEntries : Obligations.StructuresUseFirstFourPatEntries :=
  ⟨fun e => toNat_patIndex_false (entryPcd e) (entryPwt e), fun c => toNat_patIndex_false c.cr3Pcd c.cr3Pwt⟩

end Sys2Proof.Machine
end

section
/-! The walks, entry by entry (spec/20_memory.md R43 to R60; spec/60_exceptions.md R93, R99; log 12, log 22). -/

namespace Sys2Proof.Machine

open Sys2Proof

/-! What a walk looks at besides memory is not changed by the reads and updates it makes. -/

theorem Quiet.permitted {s t : State} (q : Quiet s t) (level : Level) (e : QWord) (la : LinAddr) (access : Access) :
    Machine.permitted t level e la access = Machine.permitted s level e la access := by
  rw [Machine.permitted, q.platform, q.cpu]
  rfl

theorem Quiet.paeReserved {s t : State} (q : Quiet s t) (level : Level) (e : QWord) :
    Machine.paeReserved t level e = Machine.paeReserved s level e := by
  rw [Machine.paeReserved, q.platform, Machine.paeReserved]

theorem Quiet.paeAddress {s t : State} (q : Quiet s t) (k : PaeKey) :
    Machine.paeAddress t k = Machine.paeAddress s k := by
  rw [Machine.paeAddress, q.platform, Machine.paeAddress]

theorem Quiet.base2M {s t : State} (q : Quiet s t) (pde : QWord) : Machine.base2M t pde = Machine.base2M s pde := by
  rw [Machine.base2M, q.paeAddress, Machine.base2M]

theorem Quiet.base4K {s t : State} (q : Quiet s t) (pte : QWord) : Machine.base4K t pte = Machine.base4K s pte := by
  rw [Machine.base4K, q.paeAddress, Machine.base4K]

theorem Quiet.pse {s t : State} (q : Quiet s t) : t.cpu.pse = s.cpu.pse := by
  rw [q.cpu]
  rfl

theorem readEntry4_quiet {pa : PhysAddr} {idx : BitVec 3} {s t : State} {v : QWord}
    (h : readEntry4 pa idx s = .ok v t) : Quiet s t :=
  (framed_readEntry4 pa idx s).of_eq_ok h

theorem readEntry8_quiet {pa : PhysAddr} {idx : BitVec 3} {s t : State} {v : QWord}
    (h : readEntry8 pa idx s = .ok v t) : Quiet s t :=
  (framed_readEntry8 pa idx s).of_eq_ok h

/-! The page faults of a walk. -/

/-- An operation ends in a page fault for `la`, in state `w` but for CR2, whose error code has bit 0 and bit 3 as
given (R93). -/
def Res.PageFaults {α : Type} (present reserved : Bool) (la : LinAddr) (w : State) (r : Res α) : Prop :=
  ∃ ec : Word, ec.getLsbD 3 = reserved ∧ ec.getLsbD 0 = present ∧
    r = .fault (.exception (.pageFault ec la) { w with cpu := { w.cpu with cr2 := la } })

/-- Bits 3 and 0 of the error code (R93). -/
theorem pageFaultCode_bits (present reserved : Bool) (access : Access) (cpl : BitVec 2) :
    (pageFaultCode present reserved access cpl).getLsbD 3 = reserved ∧
      (pageFaultCode present reserved access cpl).getLsbD 0 = present := by
  simp only [pageFaultCode]
  generalize decide (cpl = 3#2) = user
  generalize decide (access = .write) = writes
  revert present reserved user writes
  decide

/-- A failing walk raises its page fault after the update of the entries above (R99). -/
theorem failWalk_pageFaults {α : Type} {above : List EntryRef} {access : Access} {s w : State}
    (present reserved : Bool) (la : LinAddr) (h : accessedDirtyUpdates above access false s = .ok () w) :
    (failWalk above present reserved access la s : Res α).PageFaults present reserved la w := by
  obtain ⟨rsvd, p⟩ := pageFaultCode_bits present reserved access w.cpu.cpl
  refine ⟨_, rsvd, p, ?_⟩
  rw [failWalk, h]
  rfl

section
variable {α : Type} {above : List EntryRef} {e : EntryRef} {reserved : Bool} {access : Access} {la : LinAddr}
  {s w : State} {k : State → Res α}

/-- An entry with P = 0 fails, whatever its other bits (R49). -/
theorem checkEntry_notPresent (hp : e.value.getLsbD 0 = false)
    (h : accessedDirtyUpdates above access false s = .ok () w) :
    (checkEntry above e reserved access la s k).PageFaults false false la w := by
  have hp' : entryPresent e.value = false := hp
  simpa [checkEntry, hp'] using failWalk_pageFaults false false la h

/-- A present entry with a broken reserved bit fails, whether it permits the access or not (R46, R49). -/
theorem checkEntry_reserved (hp : e.value.getLsbD 0 = true) (hr : reserved = true)
    (h : accessedDirtyUpdates above access false s = .ok () w) :
    (checkEntry above e reserved access la s k).PageFaults true true la w := by
  have hp' : entryPresent e.value = true := hp
  simpa [checkEntry, hp', hr] using failWalk_pageFaults true true la h

/-- A present entry without a broken reserved bit that does not permit the access fails (R49; log 37). -/
theorem checkEntry_denied (hp : e.value.getLsbD 0 = true) (hr : reserved = false)
    (hd : permitted s e.level e.value la access = false)
    (h : accessedDirtyUpdates above access false s = .ok () w) :
    (checkEntry above e reserved access la s k).PageFaults true false la w := by
  have hp' : entryPresent e.value = true := hp
  simpa [checkEntry, hp', hr, hd] using failWalk_pageFaults true false la h

/-- Through a present, unreserved and permitted entry a walk goes on. -/
theorem checkEntry_passes (hp : e.value.getLsbD 0 = true) (hr : reserved = false)
    (hd : permitted s e.level e.value la access = true) :
    checkEntry above e reserved access la s k = k s := by
  have hp' : entryPresent e.value = true := hp
  simp [checkEntry, hp', hr, hd]

theorem failWalk_ne_ok {present : Bool} {a : α} : failWalk above present reserved access la s ≠ .ok a w := by
  intro h
  obtain ⟨_, _, _, hraise⟩ := Res.bind_eq_ok.1 h
  cases hraise

/-- A walk that completes went on through its entry. -/
theorem checkEntry_eq_ok {a : α} (h : checkEntry above e reserved access la s k = .ok a w) : k s = .ok a w := by
  unfold checkEntry at h
  split_ifs at h
  · exact absurd h failWalk_ne_ok
  · exact absurd h failWalk_ne_ok
  · exact absurd h failWalk_ne_ok
  · exact h

end

/-! The end of a walk that found its page. -/

/-- The update of the entries, and the type in the PAT as it is (R60). -/
theorem finishWalk_completes {es : List EntryRef} {access : Access} {s u : State} {idx : BitVec 3} {p : PatType}
    (size : PageSize) (pa : PhysAddr) (h : accessedDirtyUpdates es access true s = .ok () u)
    (hp : patType? s.cpu.pat idx = some p) :
    finishWalk es size pa idx access s = .ok ⟨pa, some ⟨size, idx, p⟩⟩ u := by
  have same : u.cpu.pat = s.cpu.pat := ((framed_accessedDirtyUpdates es access true s).of_eq_ok h).pat
  have lookup : patLookup idx u = .ok p u := patLookup_eq_ok.2 ⟨same ▸ hp, rfl⟩
  simp [finishWalk, h, lookup]

/-- A walk that finds its page gives the address and the page it was about to. -/
theorem finishWalk_eq_ok {es : List EntryRef} {size : PageSize} {pa : PhysAddr} {idx : BitVec 3} {access : Access}
    {s u : State} {tr : Translation} (h : finishWalk es size pa idx access s = .ok tr u) :
    ∃ p, tr = ⟨pa, some ⟨size, idx, p⟩⟩ := by
  obtain ⟨_, _, _, h⟩ := Res.bind_eq_ok.1 h
  obtain ⟨p, _, _, h⟩ := Res.bind_eq_ok.1 h
  cases h
  exact ⟨p, rfl⟩

/-! The walk without PAE. -/

/-- The directory entry `v` of `la` where the walk without PAE reads it (R43). -/
def State.dirRef (s : State) (la : LinAddr) (v : QWord) : EntryRef :=
  { level := .pde, value := v, addr := pdeAddress s.cpu.cr3 la, idx := cr3Index s.cpu }

/-- The page-table entry `x` of `la` that directory entry `v` leads to (R51, R59). -/
def tableRef (la : LinAddr) (v x : QWord) : EntryRef :=
  { level := .pte, value := x, addr := pteAddress (v.setWidth 32) la, idx := structIndex v }

/-- Without PAE and with no cached translation for `la`, the walk reads directory entry `v`, which leaves `t`. -/
structure State.ReadsDir (s : State) (la : LinAddr) (v : QWord) (t : State) : Prop where
  pg : s.cpu.pg = true
  pae : s.cpu.pae = false
  tlb : ∀ e ∈ s.cpu.tlb, e.covers la = false
  read : readEntry4 (pdeAddress s.cpu.cr3 la) (cr3Index s.cpu) s = .ok v t

section
variable {s t : State} {la : LinAddr} {v : QWord}

theorem State.ReadsDir.quiet (h : s.ReadsDir la v t) : Quiet s t := readEntry4_quiet h.read

/-- The translation goes on as the PS bit and CR4.PSE say (R37). -/
theorem State.ReadsDir.translate (h : s.ReadsDir la v t) (access : Access) :
    Machine.translate access la s =
      if s.cpu.pse && pdePs v then walk4M (s.dirRef la v) access la t else walk4K (s.dirRef la v) access la t := by
  rw [translate_eq_walk h.pg h.tlb]
  simp only [walk, h.pae, Bool.false_eq_true, if_false, walk32, h.read, Res.bind_ok, h.quiet.pse, State.dirRef]

/-- An entry with PS = 1 maps a 4 MB page where PSE is set. -/
theorem State.ReadsDir.translate_large (h : s.ReadsDir la v t) (access : Access) (hpse : s.cpu.pse = true)
    (hps : v.getLsbD 7 = true) : Machine.translate access la s = walk4M (s.dirRef la v) access la t := by
  have hps' : pdePs v = true := hps
  simp [h.translate, hpse, hps']

/-- Another entry points to a page table. -/
theorem State.ReadsDir.translate_table (h : s.ReadsDir la v t) (access : Access)
    (hps : (s.cpu.pse && v.getLsbD 7) = false) :
    Machine.translate access la s = walk4K (s.dirRef la v) access la t := by
  have hps' : (s.cpu.pse && pdePs v) = false := hps
  simp only [h.translate, hps', Bool.false_eq_true, if_false]

end

/-- The bits of a 4 MB entry are those of the 8 bytes that it is extended to. -/
theorem reserved4M_setWidth (v : QWord) : reserved4M (v.setWidth 32) = (v.extractLsb' 17 5 != 0#5) := by
  rw [reserved4M, BitVec.extractLsb'_setWidth_of_le (by decide)]

theorem address4M_setWidth (v : QWord) (la : LinAddr) :
    address4M (v.setWidth 32) la = v.extractLsb' 13 4 ++ v.extractLsb' 22 10 ++ la.extractLsb' 0 22 := by
  rw [address4M, BitVec.extractLsb'_setWidth_of_le (by decide), BitVec.extractLsb'_setWidth_of_le (by decide)]

/-- The address through a page-table entry as a number: base and offset, below 4 GB (R51). -/
theorem toNat_address4K_setWidth (x : QWord) (la : LinAddr) :
    (address4K (x.setWidth 32) la).toNat = x.toNat / 2 ^ 12 % 2 ^ 20 * 2 ^ 12 + la.toNat % 2 ^ 12 := by
  rw [address4K, BitVec.extractLsb'_setWidth_of_le (by decide), BitVec.toNat_setWidth, toNat_append_eq_add,
    toNat_extractLsb'_eq, toNat_extractLsb'_eq]
  omega

/-- A present and permitted directory entry that maps no large page leads to a page table, whose entry is tested next;
it has no reserved bits (R51). -/
theorem State.ReadsDir.translate_pte {s t u : State} {access : Access} {la : LinAddr} {v x : QWord}
    (h : s.ReadsDir la v t) (hps : (s.cpu.pse && v.getLsbD 7) = false) (hp : v.getLsbD 0 = true)
    (hd : permitted s .pde v la access = true)
    (hx : readEntry4 (pteAddress (v.setWidth 32) la) (structIndex v) t = .ok x u) :
    Machine.translate access la s = checkEntry [s.dirRef la v] (tableRef la v x) false access la u fun w =>
      finishWalk [s.dirRef la v, tableRef la v x] .k4 (address4K (x.setWidth 32) la) (pteIndex x) access w := by
  have permits : permitted t .pde v la access = true := (h.quiet.permitted ..).trans hd
  rw [h.translate_table access hps, walk4K, checkEntry_passes hp rfl permits]
  simp only [State.dirRef, hx, Res.bind_ok, tableRef]

/-- Settles O26: the reserved bits are tested before PermCheck, and no entry is above. -/
theorem reservedBitOf4MPdeFaults : Obligations.ReservedBitOf4MPdeFaults := by
  intro s t access la v hpg hpae hpse htlb hread hp hps hres
  have dir : s.ReadsDir la v t := ⟨hpg, hpae, htlb, hread⟩
  have broken : reserved4M (v.setWidth 32) = true := by simpa [reserved4M_setWidth] using hres
  show (translate access la s).PageFaults true true la t
  rw [dir.translate_large access hpse hps]
  exact checkEntry_reserved hp broken rfl

/-- Settles O30: both entries pass their tests, and the page-table entry gives address and index. -/
theorem smallPageTranslates : Obligations.SmallPageTranslates := by
  intro s t u w access la v x p hpg hpae hps htlb hread hvp hvd hx hxp hxd hupd hpat
  have dir : s.ReadsDir la v t := ⟨hpg, hpae, htlb, hread⟩
  have toTable : Quiet s u := dir.quiet.trans (readEntry4_quiet hx)
  refine ⟨address4K (x.setWidth 32) la, toNat_address4K_setWidth x la, ?_⟩
  rw [dir.translate_pte hps hvp hvd hx, checkEntry_passes hxp rfl ((toTable.permitted ..).trans hxd)]
  exact finishWalk_completes _ _ hupd (toTable.pat ▸ hpat)

/-- Settles O34: each of the two ends of the walk has one page size, and the 4 KB one no address above 4 GB. -/
theorem walkFollowsPagingModeTable : Obligations.WalkFollowsPagingModeTable := by
  intro s t u access la v tr hpg hpae htlb hread h
  have dir : s.ReadsDir la v t := ⟨hpg, hpae, htlb, hread⟩
  cases hlarge : s.cpu.pse && v.getLsbD 7 with
  | true =>
    obtain ⟨hpse, hps⟩ := Bool.and_eq_true_iff.1 hlarge
    rw [dir.translate_large access hpse hps] at h
    obtain ⟨p, rfl⟩ := finishWalk_eq_ok (checkEntry_eq_ok h)
    rw [hpse, hps]
    refine ⟨rfl, fun n hn => ?_⟩
    cases hn
    exact (address4M _ la).isLt
  | false =>
    rw [dir.translate_table access hlarge] at h
    obtain ⟨x, w, _, h⟩ := Res.bind_eq_ok.1 (checkEntry_eq_ok h)
    obtain ⟨p, rfl⟩ := finishWalk_eq_ok (checkEntry_eq_ok h)
    have mode : pagingMode true false s.cpu.pse (v.getLsbD 7) = .k4Phys32 := by
      revert hlarge
      cases s.cpu.pse <;> cases v.getLsbD 7 <;> simp [pagingMode]
    rw [mode]
    refine ⟨rfl, fun n hn => ?_⟩
    cases hn
    show (address4K (x.setWidth 32) la).toNat < 2 ^ 32
    rw [toNat_address4K_setWidth]
    omega

/-! The walk under PAE. -/

/-- The page-table entry `x` of `la` that directory entry `v` leads to under PAE (R52, R59). -/
def State.pteRef (s : State) (la : LinAddr) (v x : QWord) : EntryRef :=
  { level := .pte, value := x, addr := paeAddress s (.pteAt v la), idx := structIndex v }

/-- Under PAE and with no cached translation for `la`, the walk reads pointer-table entry `d`, which leaves `t`. -/
structure State.ReadsPdpte (s : State) (la : LinAddr) (d : QWord) (t : State) : Prop where
  pg : s.cpu.pg = true
  pae : s.cpu.pae = true
  tlb : ∀ e ∈ s.cpu.tlb, e.covers la = false
  read : readEntry8 (paeAddress s (.pdpteAt s.cpu.cr3 la)) (cr3Index s.cpu) s = .ok d t

section
variable {s t u w : State} {access : Access} {la : LinAddr} {d v x : QWord}

/-- The walk tests the pointer-table entry first. -/
theorem State.ReadsPdpte.translate (h : s.ReadsPdpte la d t) (access : Access) :
    Machine.translate access la s =
      checkEntry [] (s.pdpteRef la d) (paeReserved s .pdpte d) access la t fun u =>
        walkPaePde (s.pdpteRef la d) access la u := by
  rw [translate_eq_walk h.pg h.tlb]
  simp only [walk, h.pae, if_true, walkPae, h.read, Res.bind_ok, (readEntry8_quiet h.read).paeReserved]
  rfl

theorem State.throughPdpte.readsPdpte (h : s.throughPdpte access la d t) : s.ReadsPdpte la d t :=
  let ⟨pg, pae, tlb, read, _⟩ := h
  ⟨pg, pae, tlb, read⟩

theorem State.throughPdpte.quiet (h : s.throughPdpte access la d t) : Quiet s t := readEntry8_quiet h.readsPdpte.read

/-- Through the pointer-table entry the walk goes on with the directory. -/
theorem State.throughPdpte.translate (h : s.throughPdpte access la d t) :
    Machine.translate access la s = walkPaePde (s.pdpteRef la d) access la t := by
  have ⟨_, _, _, _, hp, hr, hd⟩ := h
  rw [h.readsPdpte.translate access]
  exact checkEntry_passes hp hr ((h.quiet.permitted ..).trans hd)

/-- The walk then tests the directory entry: its own reserved bits with PS = 1, and the open ones (R47). -/
theorem State.throughPdpte.translate_pde (h : s.throughPdpte access la d t)
    (hv : readEntry8 (paeAddress s (.pdeAt d la)) (structIndex d) t = .ok v u) :
    Machine.translate access la s =
      checkEntry [s.pdpteRef la d] (s.pdeRef la d v) ((pdePs v && reserved2M v) || paeReserved s .pde v) access la u
        fun w =>
          if pdePs v then
            finishWalk [s.pdpteRef la d, s.pdeRef la d v] .m2 (address2M (base2M w v) v la) (largeIndex v) access w
          else walkPaePte (s.pdpteRef la d) (s.pdeRef la d v) access la w := by
  have address : paeAddress t (.pdeAt d la) = paeAddress s (.pdeAt d la) := h.quiet.paeAddress _
  have reserved : paeReserved u .pde v = paeReserved s .pde v := (h.quiet.trans (readEntry8_quiet hv)).paeReserved ..
  rw [h.translate]
  simp only [walkPaePde, State.pdpteRef, State.pdeRef, address, hv, Res.bind_ok, reserved]

theorem State.throughPde.quiet (h : s.throughPde access la d v t u) : Quiet t u := readEntry8_quiet h.1

/-- Through the directory entry the walk tests the page-table entry. -/
theorem State.throughPde.translate_pte (hd : s.throughPdpte access la d t) (hv : s.throughPde access la d v t u)
    (hx : readEntry8 (paeAddress s (.pteAt v la)) (structIndex v) u = .ok x w) :
    Machine.translate access la s =
      checkEntry [s.pdpteRef la d, s.pdeRef la d v] (s.pteRef la v x) (paeReserved s .pte x) access la w fun y =>
        finishWalk [s.pdpteRef la d, s.pdeRef la d v, s.pteRef la v x] .k4 (inPage .k4 (base4K y x) la) (pteIndex x)
          access y := by
  obtain ⟨hread, hp, hps, hr, hperm⟩ := hv
  have toPde : Quiet s u := hd.quiet.trans (readEntry8_quiet hread)
  have hps' : pdePs v = false := hps
  have address : paeAddress u (.pteAt v la) = paeAddress s (.pteAt v la) := toPde.paeAddress _
  have reserved : paeReserved w .pte x = paeReserved s .pte x := (toPde.trans (readEntry8_quiet hx)).paeReserved ..
  rw [hd.translate_pde hread,
    checkEntry_passes hp (by simp [hps', hr]) ((toPde.permitted ..).trans hperm)]
  simp only [hps', Bool.false_eq_true, if_false, walkPaePte, State.pdeRef, address, hx, Res.bind_ok, reserved,
    State.pteRef]

end

/-- Settles O27: the entry's own reserved bits are tested before PermCheck, after the update of the entry above. -/
theorem reservedBitOf2MPdeFaults : Obligations.ReservedBitOf2MPdeFaults := by
  intro s t u w access la d v hpg hpae htlb hread hdp hdr hdd hv hvp hps hres hupd
  have through : s.throughPdpte access la d t := ⟨hpg, hpae, htlb, hread, hdp, hdr, hdd⟩
  have broken : reserved2M v = true := by simpa [reserved2M] using hres
  have hps' : pdePs v = true := hps
  show (translate access la s).PageFaults true true la w
  rw [through.translate_pde hv]
  exact checkEntry_reserved hvp (by simp [hps', broken]) hupd

/-- Settles O28: at each of the five places the entry is read, and its P bit is tested first. -/
theorem notPresentPdeFaults : Obligations.NotPresentPdeFaults := by
  refine ⟨fun s t access la v hpg hpae htlb hread hp => ?_,
    fun s t u w access la v x hpg hpae hps htlb hread hvp hvd hx hp hupd => ?_,
    fun s t access la d hpg hpae htlb hread hp => ?_,
    fun s t u w access la d v through hv hp hupd => ?_,
    fun s t u w y access la d v x through through' hx hp hupd => ?_⟩
  · have dir : s.ReadsDir la v t := ⟨hpg, hpae, htlb, hread⟩
    show (translate access la s).PageFaults false false la t
    rw [dir.translate access]
    split
    · exact checkEntry_notPresent hp rfl
    · exact checkEntry_notPresent hp rfl
  · have dir : s.ReadsDir la v t := ⟨hpg, hpae, htlb, hread⟩
    show (translate access la s).PageFaults false false la w
    rw [dir.translate_pte hps hvp hvd hx]
    exact checkEntry_notPresent hp hupd
  · have pdpte : s.ReadsPdpte la d t := ⟨hpg, hpae, htlb, hread⟩
    show (translate access la s).PageFaults false false la t
    rw [pdpte.translate access]
    exact checkEntry_notPresent hp rfl
  show (translate access la s).PageFaults false false la w
  · rw [through.translate_pde hv]
    exact checkEntry_notPresent hp hupd
  show (translate access la s).PageFaults false false la y
  · rw [through'.translate_pte through hx]
    exact checkEntry_notPresent hp hupd

/-- Settles O31: at each of the five places the entry passes the tests before PermCheck. -/
theorem deniedPdeFaults : Obligations.DeniedPdeFaults := by
  refine ⟨fun s t access la v hpg hpae htlb hread hp hres hd => ?_,
    fun s t u w access la v x hpg hpae hps htlb hread hvp hvd hx hp hd hupd => ?_,
    fun s t access la d hpg hpae htlb hread hp hr hd => ?_,
    fun s t u w access la d v through hv hp hres hr hd hupd => ?_,
    fun s t u w y access la d v x through through' hx hp hr hd hupd => ?_⟩
  · have dir : s.ReadsDir la v t := ⟨hpg, hpae, htlb, hread⟩
    have hd' := (dir.quiet.permitted .pde v la access).trans hd
    show (translate access la s).PageFaults true false la t
    rw [dir.translate access]
    split
    case isTrue hlarge =>
      obtain ⟨hpse, hps⟩ := Bool.and_eq_true_iff.1 hlarge
      exact checkEntry_denied hp (by simp [State.dirRef, reserved4M_setWidth, hres hpse hps]) hd' rfl
    case isFalse => exact checkEntry_denied hp rfl hd' rfl
  · have dir : s.ReadsDir la v t := ⟨hpg, hpae, htlb, hread⟩
    have toTable : Quiet s u := dir.quiet.trans (readEntry4_quiet hx)
    show (translate access la s).PageFaults true false la w
    rw [dir.translate_pte hps hvp hvd hx]
    exact checkEntry_denied hp rfl ((toTable.permitted ..).trans hd) hupd
  · have pdpte : s.ReadsPdpte la d t := ⟨hpg, hpae, htlb, hread⟩
    show (translate access la s).PageFaults true false la t
    rw [pdpte.translate access]
    exact checkEntry_denied hp hr (((readEntry8_quiet hread).permitted ..).trans hd) rfl
  · have toPde : Quiet s u := through.quiet.trans (readEntry8_quiet hv)
    have unreserved : ((pdePs v && reserved2M v) || paeReserved s .pde v) = false := by
      cases hps : pdePs v with
      | true => simp [reserved2M, hres hps, hr]
      | false => simp [hr]
    show (translate access la s).PageFaults true false la w
    rw [through.translate_pde hv]
    exact checkEntry_denied hp unreserved ((toPde.permitted ..).trans hd) hupd
  · have toPte : Quiet s w := (through.quiet.trans through'.quiet).trans (readEntry8_quiet hx)
    show (translate access la s).PageFaults true false la y
    rw [through'.translate_pte through hx]
    exact checkEntry_denied hp hr ((toPte.permitted ..).trans hd) hupd

/-! The tests of an entry do not see its PAT index bit (R48). -/

theorem paeReserved_cleared_pde {s : State} {v : QWord} (hps : v.getLsbD 7 = true) :
    paeReserved s .pde (v &&& ~~~0x1000#64) = paeReserved s .pde v := by
  have hps' : pdePs v = true := hps
  have hcleared : pdePs (v &&& ~~~0x1000#64) = true := by simp [pdePs, hps]
  simp only [paeReserved, hps', hcleared, withoutPatIndex, BitVec.and_assoc, BitVec.and_self]

theorem permitted_cleared_pde {s : State} {v : QWord} (hpae : s.cpu.pae = true) (hps : v.getLsbD 7 = true)
    (la : LinAddr) (access : Access) :
    permitted s .pde (v &&& ~~~0x1000#64) la access = permitted s .pde v la access := by
  have hlarge : s.cpu.largePde v = true := by simp [Cpu.largePde, hpae, pdePs, hps]
  have hcleared : s.cpu.largePde (v &&& ~~~0x1000#64) = true := by simp [Cpu.largePde, hpae, pdePs, hps]
  simp only [permitted, hlarge, hcleared, withoutPatIndex, BitVec.and_assoc, BitVec.and_self]

theorem paeReserved_cleared_pte (s : State) (x : QWord) :
    paeReserved s .pte (x &&& ~~~0x80#64) = paeReserved s .pte x := by
  simp only [paeReserved, withoutPatIndex, BitVec.and_assoc, BitVec.and_self]

theorem permitted_cleared_pte (s : State) (x : QWord) (la : LinAddr) (access : Access) :
    permitted s .pte (x &&& ~~~0x80#64) la access = permitted s .pte x la access := by
  simp only [permitted, withoutPatIndex, BitVec.and_assoc, BitVec.and_self]

/-- The four top bits of a 2 MB page's address are the open ones of its base (R52). -/
theorem address2M_base2M (s : State) (v : QWord) (la : LinAddr) :
    address2M (base2M s v) v la =
      (paeAddress s (.page2M (v &&& ~~~0x1000#64))).extractLsb' 32 4 ++ v.extractLsb' 21 11 ++
        la.extractLsb' 0 21 := by
  have top (x : BitVec 4) (y : BitVec 11) (z : BitVec 21) : (x ++ y ++ z).extractLsb' 32 4 = x := by
    refine BitVec.eq_of_toNat_eq ?_
    rw [toNat_extractLsb'_top _ (by decide), toNat_append_eq_add, toNat_append_eq_add]
    omega
  rw [address2M, base2M, address2M, top]
  rfl

/-- Settles O32: both entries pass their tests, and the directory entry gives address and index. -/
theorem paeLargePageTranslates : Obligations.PaeLargePageTranslates := by
  intro s t u w access la d v p hpg hpae htlb hread hdp hdr hdd hv hvp hps hres hvr hvd hupd hpat
  have through : s.throughPdpte access la d t := ⟨hpg, hpae, htlb, hread, hdp, hdr, hdd⟩
  have toPde : Quiet s u := through.quiet.trans (readEntry8_quiet hv)
  have hps' : pdePs v = true := hps
  have unreserved : ((pdePs v && reserved2M v) || paeReserved s .pde v) = false := by
    simp [reserved2M, hres, (paeReserved_cleared_pde hps).symm.trans hvr]
  have permits : permitted u .pde v la access = true := by
    rw [toPde.permitted, ← permitted_cleared_pde hpae hps, hvd]
  rw [through.translate_pde hv, checkEntry_passes hvp unreserved permits, if_pos hps', toPde.base2M,
    address2M_base2M]
  exact finishWalk_completes _ _ hupd (toPde.pat ▸ hpat)

/-- Settles O33: the three entries pass their tests, and the page-table entry gives address and index. -/
theorem paeSmallPageTranslates : Obligations.PaeSmallPageTranslates := by
  intro s t u w y access la d v x p hpg hpae htlb hread hdp hdr hdd hv hvp hps hvr hvd hx hxp hxr hxd hupd hpat
  have through : s.throughPdpte access la d t := ⟨hpg, hpae, htlb, hread, hdp, hdr, hdd⟩
  have through' : s.throughPde access la d v t u := ⟨hv, hvp, hps, hvr, hvd⟩
  have toPte : Quiet s w := (through.quiet.trans through'.quiet).trans (readEntry8_quiet hx)
  have unreserved : paeReserved s .pte x = false := (paeReserved_cleared_pte s x).symm.trans hxr
  have permits : permitted w .pte x la access = true := by
    rw [toPte.permitted, ← permitted_cleared_pte, hxd]
  rw [through'.translate_pte through hx, checkEntry_passes hxp unreserved permits, toPte.base4K, base4K,
    inPage_inPage]
  exact finishWalk_completes _ _ hupd (toPte.pat ▸ hpat)

end Sys2Proof.Machine
end

section
/-! The entries of the paging structures as bytes of memory (spec/20_memory.md R34, R43, R51, R52, R59; log 25,
log 41). -/

namespace Sys2Proof.Machine

open Sys2Proof

/-! Accesses that are not undefined (R114, R115). -/

/-- While every access of every processor is UC no mapping conflicts with another (R65, R66). -/
theorem undefinedAt_of_all_uc {s : State} (hall : ∀ c ∈ s.cpu :: s.others, c.mtrrEnabled = false ∨ c.cd = true)
    (hremaps : s.remaps = []) (own : Option Mapping) (pa : PhysAddr) : undefinedAt s own pa = false := by
  have all : (s.cpu :: s.others).all (fun c => !c.mtrrEnabled || c.cd) = true :=
    List.all_eq_true.2 fun c hc => by simpa using hall c hc
  have uses : accessUses s own pa = [] := if_pos all
  simp only [undefinedAt, uses, aliased, staleUnderWc, State.remapping, hremaps, List.any_nil, Bool.or_self]

theorem undefinedStruct_of_all_uc {s : State}
    (hall : ∀ c ∈ s.cpu :: s.others, c.mtrrEnabled = false ∨ c.cd = true) (hremaps : s.remaps = [])
    (pa : PhysAddr) (n : Nat) : undefinedStruct s pa n .uc = false := by
  simp [undefinedStruct, undefinedAt_of_all_uc hall hremaps]

/-! The type a structure is accessed with. -/

/-- Where every access is UC and no older value of the PAT is live, so is the access to a structure. -/
theorem structType_plain {s : State} (hplain : s.plainStructures) (hlegal : patValueLegal s.cpu.pat = true)
    (pa : PhysAddr) (idx : BitVec 3) : structType pa idx s = .ok .uc s := by
  obtain ⟨hall, holder, _⟩ := hplain
  obtain ⟨p, hp, _⟩ := patType?_of_legal hlegal idx
  have lookup : patLookup idx s = .ok p s := patLookup_eq_ok.2 ⟨hp, rfl⟩
  have uc : effectiveType pa (some p) s = .ok .uc s := by
    refine effectiveType_eq_ok.2 ⟨?_, rfl⟩
    rcases hall s.cpu List.mem_cons_self with hen | hcd
    · simp [effectiveType?, hen]
    · simp [effectiveType?, hcd]
  simp [structType, lookup, accessPat_of_none_live (livePats_eq_nil holder), uc]

/-- Finding a structure's type changes the count of free values at most. -/
theorem structType_state {pa : PhysAddr} {idx : BitVec 3} {s t : State} {ty : EffType}
    (h : structType pa idx s = .ok ty t) : t = s ∨ t = s.drawn := by
  obtain ⟨p, u, hlookup, hrest⟩ := Res.bind_eq_ok.1 h
  obtain ⟨q, w, hpat, htype⟩ := Res.bind_eq_ok.1 hrest
  obtain ⟨_, rfl⟩ := patLookup_eq_ok.1 hlookup
  obtain ⟨_, rfl⟩ := effectiveType_eq_ok.1 htype
  exact (accessPat_cases hpat).2

/-! Bytes that memory holds and no cache has copies of. -/

/-- Memory holds the bytes `bs` from physical address `pa` up, and no cache has a copy of one (log 41). -/
def State.holdsBytes (s : State) (pa : PhysAddr) (bs : List Byte) : Prop :=
  ∀ i (hi : i < bs.length), s.holdsAt (pa + BitVec.ofNat 36 i) bs[i]

theorem State.holdsBytes_four {s : State} {pa : PhysAddr} {b0 b1 b2 b3 : Byte} (h0 : s.holdsAt pa b0)
    (h1 : s.holdsAt (pa + 1#36) b1) (h2 : s.holdsAt (pa + 2#36) b2) (h3 : s.holdsAt (pa + 3#36) b3) :
    s.holdsBytes pa [b0, b1, b2, b3]
  | 0, _ => by simpa using h0
  | 1, _ => h1
  | 2, _ => h2
  | 3, _ => h3

theorem State.holdsBytes_eight {s : State} {pa : PhysAddr} {b0 b1 b2 b3 b4 b5 b6 b7 : Byte} (h0 : s.holdsAt pa b0)
    (h1 : s.holdsAt (pa + 1#36) b1) (h2 : s.holdsAt (pa + 2#36) b2) (h3 : s.holdsAt (pa + 3#36) b3)
    (h4 : s.holdsAt (pa + 4#36) b4) (h5 : s.holdsAt (pa + 5#36) b5) (h6 : s.holdsAt (pa + 6#36) b6)
    (h7 : s.holdsAt (pa + 7#36) b7) : s.holdsBytes pa [b0, b1, b2, b3, b4, b5, b6, b7]
  | 0, _ => by simpa using h0
  | 1, _ => h1
  | 2, _ => h2
  | 3, _ => h3
  | 4, _ => h4
  | 5, _ => h5
  | 6, _ => h6
  | 7, _ => h7

/-- Bytes that memory holds and no cache has copies of are read; the state changes only under a type that is cacheable
for reads. -/
theorem physRead_holdsBytes {bs : List Byte} (ty : EffType) {s : State} {pa : PhysAddr} (hlen : bs.length ≤ 2 ^ 36)
    (h : s.holdsBytes pa bs) :
    ∃ t, physRead pa bs.length ty s = .ok bs t ∧ (ty.properties.cacheableReads = false → t = s) := by
  induction bs generalizing s pa with
  | nil => exact ⟨s, rfl, fun _ => rfl⟩
  | cons b bs ih =>
    have first : s.holdsAt pa b := by simpa using h 0 (Nat.succ_pos _)
    obtain ⟨t, hread, kept, same⟩ := readByte_holdsAt ty first
    have rest : t.holdsBytes (pa + 1#36) bs := fun i hi => by
      have inside : i + 1 < (b :: bs).length := Nat.succ_lt_succ hi
      rw [physAddr_succ]
      refine kept _ _ (fun heq => ?_) (h (i + 1) inside)
      have zero : BitVec.ofNat 36 (i + 1) = 0#36 := by simpa using heq
      have := congrArg BitVec.toNat zero
      rw [BitVec.toNat_ofNat, BitVec.toNat_ofNat, Nat.mod_eq_of_lt (by omega)] at this
      omega
    obtain ⟨u, hreads, same'⟩ := ih (Nat.le_of_succ_le hlen) rest
    exact ⟨u, by simp [physRead, hread, hreads], fun hf => (same' hf).trans (same hf)⟩

/-- The read of a structure whose result is defined gives the bytes that memory holds. -/
theorem readStruct_of_defined {s t : State} {pa : PhysAddr} {idx : BitVec 3} {ty : EffType} {bs : List Byte}
    {n : Nat} (hty : structType pa idx s = .ok ty t) (hdef : undefinedStruct t pa n ty = false)
    (hn : bs.length = n) (hlen : n ≤ 2 ^ 36) (h : s.holdsBytes pa bs) :
    ∃ u, readStruct pa n idx s = .ok bs u ∧ u.mem = s.mem ∧ (ty.properties.cacheableReads = false → u = t) := by
  subst hn
  have state := structType_state hty
  have ht : t.holdsBytes pa bs := by rcases state with rfl | rfl <;> exact h
  have hmem : t.mem = s.mem := by rcases state with rfl | rfl <;> rfl
  obtain ⟨u, hread, same⟩ := physRead_holdsBytes ty hlen ht
  exact ⟨u, by simp [readStruct, hty, hread, hdef], (physRead_mem hread).trans hmem, same⟩

/-- Where every access is UC the read of a structure changes nothing. -/
theorem readStruct_plain {s : State} {pa : PhysAddr} {bs : List Byte} {n : Nat} (idx : BitVec 3)
    (hplain : s.plainStructures) (hlegal : patValueLegal s.cpu.pat = true) (hn : bs.length = n) (hlen : n ≤ 2 ^ 36)
    (h : s.holdsBytes pa bs) : readStruct pa n idx s = .ok bs s := by
  have ⟨hall, _, hremaps⟩ := hplain
  obtain ⟨u, hread, _, same⟩ := readStruct_of_defined (structType_plain hplain hlegal pa idx)
    (undefinedStruct_of_all_uc hall hremaps pa _) hn hlen h
  rw [hread, same rfl]

/-- An update of one entry that completes is the update of a list of one. -/
theorem accessedDirtyUpdates_singleton {e : EntryRef} {access : Access} {completed : Bool} {s u : State}
    (h : accessedDirtyUpdate e access completed s = .ok () u) :
    accessedDirtyUpdates [e] access completed s = .ok () u := by
  simp [accessedDirtyUpdates, h]

/-- A 4 MB entry that passes its tests gives address and index. -/
theorem largePage_translates {s t u : State} {access : Access} {la : LinAddr} {v : QWord} {p : PatType}
    (dir : s.ReadsDir la v t) (hpse : s.cpu.pse = true) (hp : v.getLsbD 0 = true) (hps : v.getLsbD 7 = true)
    (hres : v.extractLsb' 17 5 = 0#5) (hd : permitted s .pde v la access = true)
    (hupd : accessedDirtyUpdate (s.dirRef la v) access true t = .ok () u)
    (hpat : patType? s.cpu.pat (largeIndex v) = some p) :
    translate access la s = .ok
      ⟨v.extractLsb' 13 4 ++ v.extractLsb' 22 10 ++ la.extractLsb' 0 22, some ⟨.m4, largeIndex v, p⟩⟩ u := by
  have unreserved : reserved4M (v.setWidth 32) = false := by simp [reserved4M_setWidth, hres]
  have permits : permitted t .pde v la access = true := (dir.quiet.permitted ..).trans hd
  rw [dir.translate_large access hpse hps, ← address4M_setWidth, walk4M]
  refine (checkEntry_passes hp unreserved permits).trans ?_
  exact finishWalk_completes _ _ (accessedDirtyUpdates_singleton hupd) (dir.quiet.pat ▸ hpat)

/-- Settles O29: the entry passes its tests; an entry's value is its bytes, the lowest first. -/
theorem largePageTranslates : Obligations.LargePageTranslates := by
  refine ⟨fun s t u access la v p hpg hpae hpse htlb hread hp hps hres hd hupd hpat =>
      largePage_translates ⟨hpg, hpae, htlb, hread⟩ hpse hp hps hres hd hupd hpat,
    fun s pa idx b0 b1 b2 b3 hplain hlegal h0 h1 h2 h3 => ?_,
    fun s pa idx b0 b1 b2 b3 b4 b5 b6 b7 hplain hlegal h0 h1 h2 h3 h4 h5 h6 h7 => ?_,
    fun s t pa idx ty b0 b1 b2 b3 hty hdef h0 h1 h2 h3 => ?_,
    fun s t pa idx ty b0 b1 b2 b3 b4 b5 b6 b7 hty hdef h0 h1 h2 h3 h4 h5 h6 h7 => ?_⟩
  · have hread := readStruct_plain (n := 4) idx hplain hlegal rfl (by decide) (State.holdsBytes_four h0 h1 h2 h3)
    exact Res.bind_eq_ok.2 ⟨_, _, hread, rfl⟩
  · have hread := readStruct_plain (n := 8) idx hplain hlegal rfl (by decide)
      (State.holdsBytes_eight h0 h1 h2 h3 h4 h5 h6 h7)
    exact Res.bind_eq_ok.2 ⟨_, _, hread, rfl⟩
  · obtain ⟨u, hread, hmem, _⟩ :=
      readStruct_of_defined hty hdef rfl (by decide) (State.holdsBytes_four h0 h1 h2 h3)
    exact ⟨u, Res.bind_eq_ok.2 ⟨_, _, hread, rfl⟩, hmem⟩
  · obtain ⟨u, hread, hmem, _⟩ :=
      readStruct_of_defined hty hdef rfl (by decide) (State.holdsBytes_eight h0 h1 h2 h3 h4 h5 h6 h7)
    exact ⟨u, Res.bind_eq_ok.2 ⟨_, _, hread, rfl⟩, hmem⟩

end Sys2Proof.Machine
end

section
/-! Which operations raise no exception (spec/60_exceptions.md R92, R95): all but the walks of a translation. -/

namespace Sys2Proof.Machine

open Sys2Proof

/-- An operation does not end in an exception. -/
def Res.NoException {α : Type} : Res α → Prop
  | .ok _ _ => True
  | .fault (.exception _ _) => False
  | .fault (.unbacked _) => True
  | .fault (.unwritten _) => True
  | .refused _ => True

theorem Res.NoException.bind {α β : Type} {r : Res α} {k : α → State → Res β} (h : r.NoException)
    (hk : ∀ a t, (k a t).NoException) : (r.bind k).NoException := by
  rcases r with ⟨a, t⟩ | ⟨_ | _ | _⟩ | _
  · exact hk a t
  · exact h
  · trivial
  · trivial
  · trivial

theorem noException_ifMemory {α : Type} (pa : PhysAddr) (s : State) {k : State → Res α} (h : (k s).NoException) :
    (ifMemory pa s k).NoException := by
  unfold ifMemory
  split
  · trivial
  · trivial
  · exact h

theorem noException_memoryByte (pa : PhysAddr) (s : State) : (memoryByte pa s).NoException := by
  unfold memoryByte
  split <;> trivial

theorem noException_ownOrElsewhere (pa : PhysAddr) (s : State) {own : State → Res Byte}
    (h : ∀ t, (own t).NoException) : (ownOrElsewhere pa s own).NoException := by
  unfold ownOrElsewhere
  split
  · exact h s
  · refine Res.NoException.bind trivial fun mine t => ?_
    split
    · exact h t
    · trivial

theorem noException_copyOrMemory (l : CacheLine) (pa : PhysAddr) (s : State) :
    (copyOrMemory l pa s).NoException := by
  refine Res.NoException.bind trivial fun useCopy t => ?_
  split
  · trivial
  · exact noException_memoryByte pa t

theorem noException_readChecked (pa : PhysAddr) (s : State) : (readChecked pa s).NoException := by
  unfold readChecked
  split
  · split
    · split
      · trivial
      · exact noException_copyOrMemory _ pa s
    · exact noException_memoryByte pa s
  · split <;> trivial

theorem noException_readUnchecked (pa : PhysAddr) (s : State) : (readUnchecked pa s).NoException := by
  unfold readUnchecked
  split
  · exact noException_memoryByte pa s
  · refine noException_ownOrElsewhere pa s fun t => Res.NoException.bind trivial fun check u => ?_
    split
    · exact noException_readChecked pa u
    · exact noException_memoryByte pa u

theorem noException_readCacheable (pa : PhysAddr) (ty : EffType) (s : State) :
    (readCacheable pa ty s).NoException := by
  refine noException_ownOrElsewhere pa s fun t => ?_
  split
  · split
    · trivial
    · exact noException_copyOrMemory _ pa t
  · exact (noException_memoryByte pa t).bind fun _ _ => trivial

theorem noException_readByte (pa : PhysAddr) (ty : EffType) (s : State) : (readByte pa ty s).NoException := by
  refine noException_ifMemory pa s ?_
  cases ty with
  | ucPage => exact noException_readChecked pa s
  | ucMtrr | uc => exact noException_readUnchecked pa s
  | wc =>
    simp only [readBacked]
    split
    · exact noException_memoryByte pa s
    · trivial
  | wt | wp | wb => exact noException_readCacheable pa _ s

theorem noException_physRead (pa : PhysAddr) (n : Nat) (ty : EffType) (s : State) :
    (physRead pa n ty s).NoException := by
  induction n generalizing pa s with
  | zero => trivial
  | succ n ih => exact (noException_readByte pa ty s).bind fun _ t => (ih _ t).bind fun _ _ => trivial

theorem noException_writeUnchecked (pa : PhysAddr) (v : Byte) (s : State) :
    (writeUnchecked pa v s).NoException := by
  unfold writeUnchecked
  split <;> trivial

theorem noException_writeToMemory (pa : PhysAddr) (v : Byte) (s : State) : (writeToMemory pa v s).NoException := by
  rcases writeToMemory_cases pa v s with h | h | h <;> rw [h] <;> trivial

theorem noException_writeByte (pa : PhysAddr) (ty : EffType) (v : Byte) (s : State) :
    (writeByte pa ty v s).NoException := by
  refine noException_ifMemory pa s ?_
  cases ty with
  | wb =>
    simp only [writeBacked]
    split
    · trivial
    · refine Res.NoException.bind trivial fun keep t => ?_
      split
      · trivial
      · exact noException_writeToMemory pa v t
  | wt =>
    refine (noException_writeToMemory pa v s).bind fun _ t => ?_
    split <;> trivial
  | wp => exact (noException_writeToMemory pa v s).bind fun _ _ => trivial
  | ucPage => trivial
  | ucMtrr | uc => exact noException_writeUnchecked pa v s
  | wc =>
    simp only [writeBacked]
    split <;> trivial

theorem noException_physWrite (pa : PhysAddr) (ty : EffType) (vs : List Byte) (s : State) :
    (physWrite pa ty vs s).NoException := by
  induction vs generalizing pa s with
  | nil => trivial
  | cons v vs ih => exact (noException_writeByte pa ty v s).bind fun _ t => ih _ t

theorem noException_freeBytes (n : Nat) (s : State) : (freeBytes n s).NoException := by
  induction n generalizing s with
  | zero => trivial
  | succ n ih => exact Res.NoException.bind trivial fun _ t => (ih t).bind fun _ _ => trivial

theorem noException_patLookupIn (pat : QWord) (idx : BitVec 3) (s : State) :
    (patLookupIn pat idx s).NoException := by
  unfold patLookupIn
  split <;> trivial

theorem noException_accessPat (idx : BitVec 3) (p : PatType) (s : State) : (accessPat idx p s).NoException := by
  unfold accessPat
  split
  · trivial
  · split
    · exact noException_patLookupIn _ idx _
    · trivial

theorem noException_effectiveType (pa : PhysAddr) (page : Option PatType) (s : State) :
    (effectiveType pa page s).NoException := by
  unfold effectiveType
  split <;> trivial

theorem noException_structType (pa : PhysAddr) (idx : BitVec 3) (s : State) : (structType pa idx s).NoException :=
  (noException_patLookupIn _ idx s).bind fun p t =>
    (noException_accessPat idx p t).bind fun q u => noException_effectiveType pa (some q) u

theorem noException_readStruct (pa : PhysAddr) (n : Nat) (idx : BitVec 3) (s : State) :
    (readStruct pa n idx s).NoException := by
  refine (noException_structType pa idx s).bind fun ty t => (noException_physRead pa n ty t).bind fun _ u => ?_
  split
  · exact noException_freeBytes n u
  · trivial

theorem noException_writeStruct (pa : PhysAddr) (idx : BitVec 3) (v : Byte) (s : State) :
    (writeStruct pa idx v s).NoException :=
  (noException_structType pa idx s).bind fun ty t => (noException_writeByte pa ty v t).bind fun _ _ => trivial

theorem noException_readEntry4 (pa : PhysAddr) (idx : BitVec 3) (s : State) : (readEntry4 pa idx s).NoException :=
  (noException_readStruct pa 4 idx s).bind fun _ _ => trivial

theorem noException_readEntry8 (pa : PhysAddr) (idx : BitVec 3) (s : State) : (readEntry8 pa idx s).NoException :=
  (noException_readStruct pa 8 idx s).bind fun _ _ => trivial

theorem noException_accessedDirtyUpdate (e : EntryRef) (access : Access) (completed : Bool) (s : State) :
    (accessedDirtyUpdate e access completed s).NoException := by
  simp only [accessedDirtyUpdate]
  split
  · trivial
  · exact noException_writeStruct _ _ _ s

theorem noException_accessedDirtyUpdates (es : List EntryRef) (access : Access) (completed : Bool) (s : State) :
    (accessedDirtyUpdates es access completed s).NoException := by
  induction es generalizing s with
  | nil => trivial
  | cons e es ih => exact (noException_accessedDirtyUpdate e access completed s).bind fun _ t => ih t

theorem noException_readParts (ps : List Part) (s : State) : (readParts ps s).NoException := by
  induction ps generalizing s with
  | nil => trivial
  | cons p ps ih =>
    refine Res.NoException.bind ?_ fun _ t => (ih t).bind fun _ _ => trivial
    refine (noException_physRead _ _ _ s).bind fun bs t => ?_
    split
    · exact noException_freeBytes _ t
    · trivial

theorem noException_writeParts (ps : List Part) (bs : List Byte) (s : State) :
    (writeParts ps bs s).NoException := by
  induction ps generalizing bs s with
  | nil => trivial
  | cons p ps ih =>
    exact ((noException_physWrite _ _ _ s).bind fun _ _ => trivial : (writePart p bs s).NoException).bind
      fun _ t => ih _ t

theorem noException_ifTypesAgree {α : Type} (as : List PhysAddr) (s : State) {k : State → Res α}
    (h : (k s).NoException) : (ifTypesAgree as s k).NoException := by
  unfold ifTypesAgree
  split
  · trivial
  · exact h

/-! With paging disabled no walk is made (R38). -/

/-- An operation asked in `s` raises no exception and, where it answers, changes nothing. -/
def Res.StaysAt {α : Type} (s : State) : Res α → Prop
  | .ok _ t => t = s
  | .fault (.exception _ _) => False
  | .fault (.unbacked _) => True
  | .fault (.unwritten _) => True
  | .refused _ => True

theorem Res.StaysAt.bind {α β : Type} {s : State} {r : Res α} {k : α → State → Res β} (h : r.StaysAt s)
    (hk : ∀ a, (k a s).StaysAt s) : (r.bind k).StaysAt s := by
  rcases r with ⟨a, t⟩ | ⟨_ | _ | _⟩ | _
  · cases h
    exact hk a
  · exact h
  · trivial
  · trivial
  · trivial

theorem Res.StaysAt.noException {α : Type} {s : State} {r : Res α} (h : r.StaysAt s) : r.NoException := by
  rcases r with _ | ⟨_ | _ | _⟩ | _
  · trivial
  · exact h
  · trivial
  · trivial
  · trivial

theorem Res.StaysAt.of_eq_ok {α : Type} {s t : State} {r : Res α} {a : α} (h : r.StaysAt s) (e : r = .ok a t) :
    t = s := by
  subst e
  exact h

theorem staysAt_effectiveType (pa : PhysAddr) (page : Option PatType) (s : State) :
    (effectiveType pa page s).StaysAt s := by
  unfold effectiveType
  split
  · rfl
  · trivial

/-- With paging disabled the parts of an access are formed without exception and without change of state. -/
theorem accessParts_paging_off (access : Access) (fuel : Nat) (la : LinAddr) (n : Nat) {s : State}
    (hpg : s.cpu.pg = false) : (accessParts access fuel la n s).StaysAt s := by
  induction fuel generalizing la n with
  | zero => rfl
  | succ fuel ih =>
    simp only [accessParts, translate_paging_off hpg, accessPage, Res.bind_ok]
    split
    · rfl
    · exact (staysAt_effectiveType _ _ s).bind fun ty => (ih _ _).bind fun ps => rfl

theorem fetchParts_paging_off_stays {s : State} (hpg : s.cpu.pg = false) : (fetchParts s).StaysAt s := by
  unfold fetchParts
  split
  · trivial
  · exact accessParts_paging_off _ _ _ _ hpg

/-- With paging disabled the fetch raises no exception. -/
theorem noException_fetchInstr {s : State} (hpg : s.cpu.pg = false) : (fetchInstr s).NoException := by
  refine Res.NoException.bind ((fetchParts_paging_off_stays hpg).noException.bind fun ps t => ?_) fun bs t => ?_
  · split
    · trivial
    · exact noException_readParts ps t
  · split <;> trivial

/-- With paging disabled a load raises no exception. -/
theorem noException_memRead (la : LinAddr) (n : Nat) {s : State} (hpg : s.cpu.pg = false) :
    (memRead la n s).NoException :=
  (accessParts_paging_off .read n la n hpg).noException.bind fun ps t =>
    noException_ifTypesAgree _ t (noException_readParts ps t)

/-- With paging disabled a store raises no exception. -/
theorem noException_memWrite (la : LinAddr) (bs : List Byte) {s : State} (hpg : s.cpu.pg = false) :
    (memWrite la bs s).NoException :=
  (accessParts_paging_off .write bs.length la bs.length hpg).noException.bind fun ps t =>
    noException_ifTypesAgree _ t (noException_writeParts ps bs t)

/-! What an access to the paging structures leaves of memory. -/

section
variable {P : Memory → Prop} {s : State}

theorem leavesMem_freeBytes (n : Nat) (h : P s.mem) : (freeBytes n s).LeavesMem P := by
  induction n generalizing s with
  | zero => exact h
  | succ n ih => exact Res.LeavesMem.bind (r := freeByte s) h fun _ t ht => (ih ht).bind fun _ _ hu => hu

theorem leavesMem_structType (pa : PhysAddr) (idx : BitVec 3) (h : P s.mem) : (structType pa idx s).LeavesMem P := by
  cases e : structType pa idx s with
  | ok ty t =>
    rcases structType_state e with rfl | rfl
    · exact h
    · exact h
  | fault f => trivial
  | refused q => trivial

theorem leavesMem_readStruct (pa : PhysAddr) (n : Nat) (idx : BitVec 3) (h : P s.mem) :
    (readStruct pa n idx s).LeavesMem P := by
  refine (leavesMem_structType pa idx h).bind fun ty t ht => (leavesMem_physRead pa n ty ht).bind fun bs u hu => ?_
  split
  · exact leavesMem_freeBytes n hu
  · exact hu

theorem leavesMem_readEntry4 (pa : PhysAddr) (idx : BitVec 3) (h : P s.mem) : (readEntry4 pa idx s).LeavesMem P :=
  (leavesMem_readStruct pa 4 idx h).bind fun _ _ hu => hu

theorem leavesMem_readEntry8 (pa : PhysAddr) (idx : BitVec 3) (h : P s.mem) : (readEntry8 pa idx s).LeavesMem P :=
  (leavesMem_readStruct pa 8 idx h).bind fun _ _ hu => hu

theorem leavesMem_readParts (ps : List Part) (h : P s.mem) : (readParts ps s).LeavesMem P := by
  induction ps generalizing s with
  | nil => exact h
  | cons p ps ih =>
    have part : (readPart p s).LeavesMem P := by
      refine (leavesMem_physRead _ _ _ h).bind fun bs t ht => ?_
      split
      · exact leavesMem_freeBytes _ ht
      · exact ht
    exact part.bind fun _ t ht => (ih ht).bind fun _ _ hu => hu

/-- A byte at `pa`, whatever its value, does not break the property. -/
def WriteKeeps (P : Memory → Prop) (pa : PhysAddr) : Prop := ∀ m b, P m → P (m.write pa.toNat b)

theorem writeKeeps_read {a : Nat} {b : Option Byte} {pa : PhysAddr} (h : a ≠ pa.toNat) :
    WriteKeeps (·.read a = b) pa := fun m v hm => (m.read_write_other v h).trans hm

theorem leavesMem_writeStruct {pa : PhysAddr} (idx : BitVec 3) (v : Byte) (hw : WriteKeeps P pa) (h : P s.mem) :
    (writeStruct pa idx v s).LeavesMem P := by
  refine (leavesMem_structType pa idx h).bind fun ty t ht => (leavesMem_writeByte ty v hw ht).bind fun _ u hu => ?_
  show P (if undefinedStruct t pa 1 ty = true then u.undefineByte pa else u).mem
  split
  · exact hw _ _ hu
  · exact hu

theorem leavesMem_accessedDirtyUpdate {e : EntryRef} (access : Access) (completed : Bool)
    (hw : WriteKeeps P e.addr) (h : P s.mem) : (accessedDirtyUpdate e access completed s).LeavesMem P := by
  simp only [accessedDirtyUpdate]
  split
  · exact h
  · exact leavesMem_writeStruct _ _ hw h

theorem leavesMem_accessedDirtyUpdates {es : List EntryRef} (access : Access) (completed : Bool)
    (hw : ∀ e ∈ es, WriteKeeps P e.addr) (h : P s.mem) :
    (accessedDirtyUpdates es access completed s).LeavesMem P := by
  induction es generalizing s with
  | nil => exact h
  | cons e es ih =>
    obtain ⟨first, rest⟩ := List.forall_mem_cons.1 hw
    exact (leavesMem_accessedDirtyUpdate access completed first h).bind fun _ t ht => ih rest ht

end

/-! What a walk leaves of memory, be it that it completes or raises an exception. -/

/-- Where an operation answers or raises an exception, it leaves a memory that satisfies `P`. -/
def Res.EndsWithMem {α : Type} (P : Memory → Prop) : Res α → Prop
  | .ok _ t => P t.mem
  | .fault (.exception _ t) => P t.mem
  | .fault (.unbacked _) => True
  | .fault (.unwritten _) => True
  | .refused _ => True

theorem Res.LeavesMem.endsWithMem {α : Type} {P : Memory → Prop} {r : Res α} (h : r.LeavesMem P)
    (hn : r.NoException) : r.EndsWithMem P := by
  rcases r with ⟨a, t⟩ | ⟨_ | _ | _⟩ | _
  · exact h
  · exact hn.elim
  · trivial
  · trivial
  · trivial

/-- What follows may use that what precedes it answered. -/
theorem Res.EndsWithMem.bind {α β : Type} {P : Memory → Prop} {r : Res α} {k : α → State → Res β}
    (h : r.EndsWithMem P) (hk : ∀ a t, r = .ok a t → P t.mem → (k a t).EndsWithMem P) :
    (r.bind k).EndsWithMem P := by
  rcases r with ⟨a, t⟩ | ⟨_ | _ | _⟩ | _
  · exact hk a t rfl h
  · exact h
  · trivial
  · trivial
  · trivial

section
variable {P : Memory → Prop} {s : State}

theorem endsWithMem_readEntry4 (pa : PhysAddr) (idx : BitVec 3) (h : P s.mem) : (readEntry4 pa idx s).EndsWithMem P :=
  (leavesMem_readEntry4 pa idx h).endsWithMem (noException_readEntry4 pa idx s)

theorem endsWithMem_readEntry8 (pa : PhysAddr) (idx : BitVec 3) (h : P s.mem) : (readEntry8 pa idx s).EndsWithMem P :=
  (leavesMem_readEntry8 pa idx h).endsWithMem (noException_readEntry8 pa idx s)

theorem endsWithMem_accessedDirtyUpdates {es : List EntryRef} (access : Access) (completed : Bool)
    (hw : ∀ e ∈ es, WriteKeeps P e.addr) (h : P s.mem) :
    (accessedDirtyUpdates es access completed s).EndsWithMem P :=
  (leavesMem_accessedDirtyUpdates access completed hw h).endsWithMem
    (noException_accessedDirtyUpdates es access completed s)

theorem endsWithMem_finishWalk {es : List EntryRef} (size : PageSize) (pa : PhysAddr) (idx : BitVec 3)
    (access : Access) (hw : ∀ e ∈ es, WriteKeeps P e.addr) (h : P s.mem) :
    (finishWalk es size pa idx access s).EndsWithMem P := by
  refine (endsWithMem_accessedDirtyUpdates access true hw h).bind fun _ t _ ht => ?_
  have lookup : (patLookup idx t).LeavesMem P := by
    unfold patLookup patLookupIn
    split
    · exact ht
    · trivial
  exact (lookup.endsWithMem (noException_patLookupIn _ idx t)).bind fun _ u _ hu => hu

theorem endsWithMem_checkEntry {α : Type} {above : List EntryRef} (e : EntryRef) (reserved : Bool) (access : Access)
    (la : LinAddr) {k : State → Res α} (hw : ∀ e ∈ above, WriteKeeps P e.addr) (h : P s.mem)
    (hk : (k s).EndsWithMem P) : (checkEntry above e reserved access la s k).EndsWithMem P := by
  have fails (present reserved : Bool) : (failWalk above present reserved access la s : Res α).EndsWithMem P :=
    (endsWithMem_accessedDirtyUpdates access false hw h).bind fun _ t _ ht => ht
  unfold checkEntry
  split_ifs
  · exact fails false false
  · exact fails true true
  · exact fails true false
  · exact hk

/-- The walk without PAE keeps what no byte of the directory entry, and of the page-table entry that it points to,
can break. -/
theorem endsWithMem_walk32 (access : Access) (la : LinAddr) (h : P s.mem)
    (hdir : WriteKeeps P (pdeAddress s.cpu.cr3 la))
    (htable : ∀ v u, readEntry4 (pdeAddress s.cpu.cr3 la) (cr3Index s.cpu) s = .ok v u →
      (s.cpu.pse && v.getLsbD 7) = false → WriteKeeps P (pteAddress (v.setWidth 32) la)) :
    (walk32 access la s).EndsWithMem P := by
  refine (endsWithMem_readEntry4 _ _ h).bind fun v t hv ht => ?_
  have dir : ∀ e ∈ [s.dirRef la v], WriteKeeps P e.addr := List.forall_mem_singleton.2 hdir
  show (if t.cpu.pse && pdePs v then walk4M (s.dirRef la v) access la t
    else walk4K (s.dirRef la v) access la t).EndsWithMem P
  rw [(readEntry4_quiet hv).pse]
  split
  case isTrue =>
    exact endsWithMem_checkEntry _ _ _ _ (fun _ he => nomatch he) ht (endsWithMem_finishWalk _ _ _ _ dir ht)
  case isFalse hsmall =>
    have table := htable v t hv (Bool.eq_false_iff.2 hsmall)
    refine endsWithMem_checkEntry _ _ _ _ (fun _ he => nomatch he) ht ?_
    refine (endsWithMem_readEntry4 _ _ ht).bind fun x u _ hu => ?_
    refine endsWithMem_checkEntry _ _ _ _ dir hu (endsWithMem_finishWalk _ _ _ _ ?_ hu)
    exact List.forall_mem_cons.2 ⟨hdir, List.forall_mem_singleton.2 table⟩

/-- The walk under PAE keeps what no byte of the entries that it reads can break. -/
theorem endsWithMem_walkPae (access : Access) (la : LinAddr) (h : P s.mem)
    (hpdpte : WriteKeeps P (paeAddress s (.pdpteAt s.cpu.cr3 la)))
    (hpde : ∀ d u, readEntry8 (paeAddress s (.pdpteAt s.cpu.cr3 la)) (cr3Index s.cpu) s = .ok d u →
      WriteKeeps P (paeAddress s (.pdeAt d la)) ∧
        ∀ v w, readEntry8 (paeAddress s (.pdeAt d la)) (structIndex d) u = .ok v w → v.getLsbD 7 = false →
          WriteKeeps P (paeAddress s (.pteAt v la))) :
    (walkPae access la s).EndsWithMem P := by
  refine (endsWithMem_readEntry8 _ _ h).bind fun d t hd ht => ?_
  have q := readEntry8_quiet hd
  obtain ⟨pde, hpte⟩ := hpde d t hd
  refine endsWithMem_checkEntry _ _ _ _ (fun _ he => nomatch he) ht ?_
  simp only [walkPaePde, q.paeAddress]
  refine (endsWithMem_readEntry8 _ _ ht).bind fun v u hv hu => ?_
  refine endsWithMem_checkEntry _ _ _ _ (List.forall_mem_singleton.2 hpdpte) hu ?_
  split
  case isTrue =>
    exact endsWithMem_finishWalk _ _ _ _ (List.forall_mem_cons.2 ⟨hpdpte, List.forall_mem_singleton.2 pde⟩) hu
  case isFalse hsmall =>
    have pte := hpte v u hv (Bool.eq_false_iff.2 hsmall)
    simp only [walkPaePte, (q.trans (readEntry8_quiet hv)).paeAddress]
    refine (endsWithMem_readEntry8 _ _ hu).bind fun x w _ hw => ?_
    refine endsWithMem_checkEntry _ _ _ _ (List.forall_mem_cons.2 ⟨hpdpte, List.forall_mem_singleton.2 pde⟩) hw
      (endsWithMem_finishWalk _ _ _ _ ?_ hw)
    exact List.forall_mem_cons.2 ⟨hpdpte, List.forall_mem_cons.2 ⟨pde, List.forall_mem_singleton.2 pte⟩⟩

end

end Sys2Proof.Machine
end

section
/-! What a step that ends in an exception leaves (spec/60_exceptions.md R92 to R99; log 12, log 14, log 21). -/

namespace Sys2Proof.Machine

open Sys2Proof

/-- A bind stops with a fault where one of its parts does. -/
theorem Res.bind_eq_fault {α β : Type} {r : Res α} {k : α → State → Res β} {f : Fault} :
    r.bind k = .fault f ↔ r = .fault f ∨ ∃ a t, r = .ok a t ∧ k a t = .fault f := by
  cases r <;> simp [Res.bind]

@[simp] theorem Res.outcome_eq_fault {r : Res Unit} {f : Fault} : r.outcome = .fault f ↔ r = .fault f := by
  cases r <;> simp [Res.outcome]

/-- The one exception of an instruction is general protection with code 0, in the state it found (R91, R94). -/
theorem exec_eq_exception {i : Instr} {s after : State} {e : Exception}
    (h : exec i s = .fault (.exception e after)) : e = .generalProtection 0#32 ∧ after = s := by
  cases i with
  | cpuid =>
    simp only [exec, execCpuid] at h
    split at h <;> cases h
  | rdmsr =>
    simp only [exec, execRdmsr] at h
    split_ifs at h
    cases h
    exact ⟨rfl, rfl⟩
  | wrmsr =>
    simp only [exec, execWrmsr] at h
    split_ifs at h <;> cases h <;> exact ⟨rfl, rfl⟩

/-- The exceptions of a framed operation are page faults, in what a quiet change leaves (R93, R99). -/
theorem Framed.exception {α : Type} {s after : State} {r : Res α} {e : Exception} (h : Framed s r)
    (he : r = .fault (.exception e after)) :
    ∃ ec la t, e = .pageFault ec la ∧ Quiet s t ∧ after = afterException e t := by
  subst he
  exact h

/-- The exceptions of an event are page faults of a load or store, with paging enabled. -/
theorem applyEvent_exception {ev : Event} {s after : State} {e : Exception}
    (h : applyEvent ev s = .fault (.exception e after)) :
    s.cpu.pg ≠ false ∧ ∃ ec la t, e = .pageFault ec la ∧ Quiet s t ∧ after = afterException e t := by
  cases ev with
  | memRead la n =>
    obtain h | ⟨_, _, _, h⟩ := Res.bind_eq_fault.1 h
    · refine ⟨fun hpg => ?_, (framed_memRead la n s).exception h⟩
      have none := noException_memRead la n hpg
      rwa [h] at none
    · cases h
  | memWrite la bs =>
    refine ⟨fun hpg => ?_, ?_⟩
    · have none := noException_memWrite la bs hpg
      rw [show memWrite la bs s = _ from h] at none
      exact none
    · obtain h | ⟨ps, t, _, h⟩ := Res.bind_eq_fault.1 h
      · exact (framed_accessParts _ _ _ _ s).exception h
      · have none := noException_ifTypesAgree (ps.flatMap Part.physAddrs) t (noException_writeParts ps bs t)
        rw [h] at none
        exact none.elim
  | flushTlb | flushCaches | tlbFill | tlbDrop | cacheFill | cacheDrop | setCr0 | setCr3 | setCr4 | setMtrrDefType
  | run => cases h

/-- A step that ends in an exception ended in a page fault of a fetch or of an event, with paging enabled, or in
general protection of an instruction that was fetched. -/
theorem step_exception_cases {s after : State} {e : Exception} (h : step s = .fault (.exception e after)) :
    (s.cpu.pg ≠ false ∧ (∃ ec la t, e = .pageFault ec la ∧ Quiet s.nextTurn t ∧ after = afterException e t) ∧
      (s.instructionDue = true → ∀ i t, fetchInstr s.nextTurn ≠ .ok i t)) ∨
    ∃ i, fetchInstr s.nextTurn = .ok i after ∧ e = .generalProtection 0#32 := by
  have same : s.nextTurn.cpu.pg = s.cpu.pg := by simp [Cpu.pg]
  rcases step_eq s with ⟨_, hstep⟩ | ⟨hdue, ev, rest, _, hstep⟩
  · rw [hstep, runInstr] at h
    split at h
    · rename_i i u hfetch
      obtain ⟨rfl, rfl⟩ := exec_eq_exception h
      exact .inr ⟨i, hfetch, rfl⟩
    · rename_i f hfetch
      cases h
      refine .inl ⟨fun hpg => ?_, (framed_fetchInstr s.nextTurn).exception hfetch, fun _ i t hok => ?_⟩
      · have none := noException_fetchInstr (same.trans hpg)
        rwa [hfetch] at none
      · rw [hfetch] at hok
        cases hok
    · cases h
  · rw [hstep, Res.outcome_eq_fault] at h
    obtain ⟨hpg, hfault⟩ := applyEvent_exception h
    exact .inl ⟨same ▸ hpg, hfault, fun hd => by rw [hdue] at hd; cases hd⟩

/-- A quiet change after the beginning of a step keeps the registers that the step began with. -/
theorem Quiet.sameRegisters_nextTurn {s t : State} (q : Quiet s.nextTurn t) : t.cpu.sameRegisters s.cpu := by
  obtain ⟨fs, hnote, _⟩ := s.cpu.noteCacheable_eq s
  have hregs := q.sameRegisters
  rwa [State.nextTurn_cpu, hnote] at hregs

/-- Writing back to CR2 what it held makes the registers the same whatever was written to it. -/
theorem Cpu.sameRegisters_restore_cr2 {c d : Cpu} (x : Word) (h : c.sameRegisters d) :
    { { c with cr2 := x } with cr2 := d.cr2 }.sameRegisters d := by
  obtain ⟨eax, ebx, ecx, edx, pc, cpl, cr0, _, rest⟩ := h
  exact ⟨eax, ebx, ecx, edx, pc, cpl, cr0, rfl, rest⟩

/-- With paging disabled the fetch of an instruction leaves memory. -/
theorem fetchInstr_mem {s t : State} {i : Instr} (hpg : s.cpu.pg = false) (h : fetchInstr s = .ok i t) :
    t.mem = s.mem := by
  obtain ⟨bs, u, hbytes, hdecode⟩ := Res.bind_eq_ok.1 h
  obtain ⟨ps, w, hparts, hread⟩ := Res.bind_eq_ok.1 hbytes
  obtain rfl := (fetchParts_paging_off_stays hpg).of_eq_ok hparts
  have htu : t = u := by
    split at hdecode <;> cases hdecode
    rfl
  subst htu
  split at hread
  · cases hread
  · exact (leavesMem_readParts (P := (· = w.mem)) ps rfl).of_eq_ok hread

/-- The first clause of O57: what a step that ends in an exception leaves. -/
theorem step_exception_leaves {s after : State} {e : Exception} (h : step s = .fault (.exception e after)) :
    { after.cpu with cr2 := s.cpu.cr2 }.sameRegisters s.cpu ∧ after.cpu.tlb = s.cpu.tlb ∧
      after.others.map Cpu.withoutBytes = s.nextTurn.others.map Cpu.withoutBytes ∧ after.stored = s.stored ∧
      (s.cpu.pg = false → after.mem = s.mem) ∧
      (s.instructionDue = true → ∀ i t, fetchInstr s.nextTurn = .ok i t → after = t) ∧
      (∀ ec la, e = .pageFault ec la → after.cpu.cr2 = la) ∧
      ∀ ec, e = .generalProtection ec → after.cpu.cr2 = s.cpu.cr2 ∧ ec = 0#32 := by
  rcases step_exception_cases h with ⟨hpg, ⟨ec, la, t, rfl, q, rfl⟩, hnone⟩ | ⟨i, hfetch, rfl⟩
  · have htlb : t.cpu.tlb = s.cpu.tlb := by simp [q.tlb]
    exact ⟨Cpu.sameRegisters_restore_cr2 la q.sameRegisters_nextTurn, htlb, q.others, q.stored,
      fun hoff => absurd hoff hpg, fun hdue i u hok => absurd hok (hnone hdue i u), fun _ _ he => by cases he; rfl,
      fun _ he => nomatch he⟩
  · have q : Quiet s.nextTurn after := (framed_fetchInstr s.nextTurn).of_eq_ok hfetch
    have regs := q.sameRegisters_nextTurn
    have htlb : after.cpu.tlb = s.cpu.tlb := by simp [q.tlb]
    have ⟨_, _, _, _, _, _, _, hcr2, _⟩ := regs
    refine ⟨Cpu.sameRegisters_restore_cr2 0#32 regs, htlb, q.others, q.stored, fun hoff => ?_,
      fun _ j u hok => ?_, fun _ _ he => (nomatch he), fun _ he => by cases he; exact ⟨hcr2, rfl⟩⟩
    · have hoff' : s.nextTurn.cpu.pg = false := by simpa [Cpu.pg] using hoff
      have hmem : after.mem = s.nextTurn.mem := fetchInstr_mem hoff' hfetch
      exact hmem
    · rw [hfetch] at hok
      cases hok
      rfl

/-- The second clause of O57: a walk writes nothing but lowest bytes of the entries that it reads. -/
theorem walk_memory_frame {s t : State} {access : Access} {la : LinAddr}
    (h : (∃ tr, walk access la s = .ok tr t) ∨ ∃ e, walk access la s = .fault (.exception e t)) :
    (s.cpu.pae = false → ∀ a, a ≠ (pdeAddress s.cpu.cr3 la).toNat →
      (∀ v u, readEntry4 (pdeAddress s.cpu.cr3 la) (cr3Index s.cpu) s = .ok v u →
        (s.cpu.pse && v.getLsbD 7) = false → a ≠ (pteAddress (v.setWidth 32) la).toNat) →
      t.mem.read a = s.mem.read a) ∧
    (s.cpu.pae = true → ∀ a, a ≠ (paeAddress s (.pdpteAt s.cpu.cr3 la)).toNat →
      (∀ d u, readEntry8 (paeAddress s (.pdpteAt s.cpu.cr3 la)) (cr3Index s.cpu) s = .ok d u →
        a ≠ (paeAddress s (.pdeAt d la)).toNat ∧
        ∀ v w, readEntry8 (paeAddress s (.pdeAt d la)) (structIndex d) u = .ok v w → v.getLsbD 7 = false →
          a ≠ (paeAddress s (.pteAt v la)).toNat) →
      t.mem.read a = s.mem.read a) := by
  have ends {P : Memory → Prop} (hw : (walk access la s).EndsWithMem P) : P t.mem := by
    rcases h with ⟨tr, e⟩ | ⟨e, e⟩ <;> rw [e] at hw <;> exact hw
  refine ⟨fun hpae a hdir htable => ?_, fun hpae a hpdpte hpde => ?_⟩
  · refine ends (P := (·.read a = s.mem.read a)) ?_
    rw [walk, hpae]
    exact endsWithMem_walk32 access la rfl (writeKeeps_read hdir)
      fun v u hv hsmall => writeKeeps_read (htable v u hv hsmall)
  · refine ends (P := (·.read a = s.mem.read a)) ?_
    rw [walk, hpae]
    exact endsWithMem_walkPae access la rfl (writeKeeps_read hpdpte) fun d u hd =>
      ⟨writeKeeps_read (hpde d u hd).1, fun v w hv hsmall => writeKeeps_read ((hpde d u hd).2 v w hv hsmall)⟩

/-- The bits of an entry's lowest byte after the update: 5 and 6 as given, the others as they were (R42). -/
theorem getLsbD_withAdBits (b : Byte) (bits : AdBits) {i : Nat} (hi : i < 8) :
    (withAdBits b bits).getLsbD i = if i = 5 then bits.accessed else if i = 6 then bits.dirty else b.getLsbD i := by
  obtain ⟨a, d⟩ := bits
  interval_cases i <;> cases a <;> cases d <;> simp [withAdBits]

/-- A byte that no cache holds is written to memory under UC, and nothing else changes. -/
theorem writeByte_uc_uncached {s : State} {pa : PhysAddr} (v : Byte)
    (hback : s.platform.backing? pa.toNat = some .memory) (hnone : ∀ c ∈ s.cpu :: s.others, c.cached? pa = none) :
    writeByte pa .uc v s = .ok () (s.setByte pa v) := by
  simp [writeByte, ifMemory, hback, writeBacked, writeUnchecked, State.copies_eq_nil hnone]

/-- Where every access is UC, a byte of a structure is written to memory and nothing else changes. -/
theorem writeStruct_plain {s : State} {pa : PhysAddr} {b : Byte} (idx : BitVec 3) (v : Byte)
    (hplain : s.plainStructures) (hlegal : patValueLegal s.cpu.pat = true) (h : s.holdsAt pa b) :
    writeStruct pa idx v s = .ok () (s.setByte pa v) := by
  obtain ⟨hback, _, hnone⟩ := h
  have ⟨hall, _, hremaps⟩ := hplain
  simp [writeStruct, structType_plain hplain hlegal, writeByte_uc_uncached v hback hnone,
    undefinedStruct_of_all_uc hall hremaps]

/-- The fourth clause of O57: an update writes bits 5 and 6 as the parameter gives them (R42; log 21). -/
theorem accessedDirtyUpdates_plain {s : State} {e : EntryRef} {b : Byte} (access : Access) (completed : Bool)
    (hplain : s.plainStructures) (hlegal : patValueLegal s.cpu.pat = true) (h : s.holdsAt e.addr b) :
    let bits := lookupOr s.platform.accessedDirty Config.accessedDirty
      { level := e.level, entry := e.value, access := access, completed := completed }
    ∃ (t : State) (v : Byte), accessedDirtyUpdates [e] access completed s = .ok () t ∧
      (t = s.setByte e.addr v ∨ t = s ∧ v = e.value.extractLsb' 0 8) ∧
      v.getLsbD 5 = bits.accessed ∧ v.getLsbD 6 = bits.dirty ∧
      ∀ i < 8, i ≠ 5 → i ≠ 6 → v.getLsbD i = e.value.getLsbD i := by
  intro bits
  have bit (i : Nat) (hi : i < 8) := getLsbD_withAdBits (e.value.extractLsb' 0 8) bits hi
  have effect : ∃ t, accessedDirtyUpdate e access completed s = .ok () t ∧
      (t = s.setByte e.addr (withAdBits (e.value.extractLsb' 0 8) bits) ∨
        t = s ∧ withAdBits (e.value.extractLsb' 0 8) bits = e.value.extractLsb' 0 8) := by
    by_cases same : withAdBits (e.value.extractLsb' 0 8) bits = e.value.extractLsb' 0 8
    · exact ⟨s, if_pos same, .inr ⟨rfl, same⟩⟩
    · exact ⟨_, (if_neg same).trans (writeStruct_plain _ _ hplain hlegal h), .inl rfl⟩
  obtain ⟨t, hupd, ht⟩ := effect
  refine ⟨t, _, accessedDirtyUpdates_singleton hupd, ht, by simpa using bit 5 (by decide),
    by simpa using bit 6 (by decide), fun i hi h5 h6 => ?_⟩
  rw [bit i hi, if_neg h5, if_neg h6, BitVec.getLsbD_extractLsb', Nat.zero_add, decide_eq_true hi, Bool.true_and]

/-- Settles O57: the exceptions of a step are those of a fetch, of an event and of an instruction; the walk's own
writes are the updates of its entries. -/
theorem exceptionLeavesRegisters : Obligations.ExceptionLeavesRegisters := by
  refine ⟨fun s after e h => ?_, fun s t access la h => walk_memory_frame h,
    fun s t es access completed h a ha => ?_,
    fun s e access completed b hplain hlegal hb => accessedDirtyUpdates_plain access completed hplain hlegal hb,
    fun s t pa idx v h => ?_⟩
  · obtain ⟨regs, tlb, others, stored, mem, fetched, fault, protection⟩ := step_exception_leaves h
    refine ⟨regs, tlb, others, stored, mem, fetched, ?_⟩
    cases e with
    | pageFault ec la => exact fault ec la rfl
    | generalProtection ec => exact protection ec rfl
  · exact (leavesMem_accessedDirtyUpdates (P := (·.read a = s.mem.read a)) access completed
      (fun e he => writeKeeps_read (ha e he)) rfl).of_eq_ok h
  · rcases h with h | h
    · exact (leavesMem_readEntry4 (P := (· = s.mem)) pa idx rfl).of_eq_ok h
    · exact (leavesMem_readEntry8 (P := (· = s.mem)) pa idx rfl).of_eq_ok h

end Sys2Proof.Machine
end

section
/-! What the events leave of the other processors (spec/60_exceptions.md R103; spec/20_memory.md R68, R77). -/

namespace Sys2Proof.Machine

open Sys2Proof

/-- The event changes the running processor or memory only: it does not touch the caches of the others (R103). -/
theorem applyEvent_others {e : Event} {s t : State} (h : applyEvent e s = .ok () t) (hrun : ∀ k, e ≠ .run k) :
    t.others.map Cpu.withoutBytes = s.others.map Cpu.withoutBytes := by
  cases e with
  | tlbFill access la =>
    cases h
    obtain ⟨u, tlb, q, hfill⟩ := s.tlbFill_quiet access la
    rw [hfill]
    exact q.others
  | cacheFill access la =>
    cases h
    exact (s.cacheFill_quiet access la).others
  | cacheDrop pa =>
    cases h
    exact (s.cacheDrop_quiet pa).others
  | flushTlb | flushCaches | tlbDrop | setCr0 | setCr3 | setCr4 | setMtrrDefType =>
    cases h
    rfl
  | memRead la n =>
    obtain ⟨bs, u, hread, ht⟩ := Res.bind_eq_ok.1 h
    cases ht
    exact ((framed_memRead la n s).of_eq_ok hread).others
  | memWrite la bs =>
    obtain ⟨as, q⟩ := memWrite_quiet h
    exact q.others
  | run k => exact absurd rfl (hrun k)

/-- The choice of the running processor changes places in the system. -/
theorem State.runProcessor_perm (s : State) (k : Nat) :
    ((s.runProcessor k).cpu :: (s.runProcessor k).others).Perm (s.cpu :: s.others) := by
  unfold State.runProcessor
  split
  · rename_i c hc
    simpa [hc] using s.others.getD_set_perm_cons k s.cpu
  · exact List.Perm.refl _

/-- Settles O58: an event is a quiet change for the others, and `run` exchanges two processors. -/
theorem eventsLeaveOtherProcessors : Obligations.EventsLeaveOtherProcessors := by
  refine ⟨fun e s t h hrun => applyEvent_others h hrun, fun s t e k pa v q he h => ?_, fun k s t h => ?_⟩
  · simp only [List.mem_cons, List.not_mem_nil, or_false] at he
    rcases he with rfl | rfl | rfl | rfl | he
    · cases h
      rfl
    · cases h
      rfl
    · cases h
      rfl
    · cases h
      exact s.cacheDrop_others pa
    · rcases he with rfl | rfl | rfl | rfl <;> cases h <;> rfl
  · cases h
    refine ⟨s.runProcessor_perm k, s.runProcessor_mem k, fun c hc => ?_⟩
    simp [State.runProcessor, hc]

/-- Settles O35: with an empty TLB a translation is a walk; an older value of the PAT that one flush keeps is marked
for the other. -/
theorem flushTlbForcesWalk : Obligations.FlushTlbForcesWalk := by
  refine ⟨fun s t access la hpg h => ?_, fun s t u e f hef h h' => ?_⟩
  · cases h
    exact ⟨rfl, translate_eq_walk hpg fun _ he => nomatch he⟩
  · have both (ps : List OlderPat) :
        cachesFlushedPats (tlbFlushedPats ps) = [] ∧ tlbFlushedPats (cachesFlushedPats ps) = [] := by
      simp only [cachesFlushedPats, tlbFlushedPats, List.map_eq_nil_iff, List.filter_eq_nil_iff, List.forall_mem_map]
      exact ⟨fun _ _ => by simp, fun _ _ => by simp⟩
    rcases hef with hef | hef <;> cases hef <;> cases h <;> cases h'
    · exact ⟨(both _).1, rfl, rfl, rfl⟩
    · exact ⟨(both _).2, rfl, rfl, rfl⟩

end Sys2Proof.Machine
end

section
/-! Reads and writes of a byte through the caches (spec/20_memory.md R62, R68, R73, R74; D27; log 23, log 26). -/

namespace Sys2Proof.Machine

open Sys2Proof

/-- Settles O43: the test of what backs the address comes before the access. -/
theorem unbackedAccessStops : Obligations.UnbackedAccessStops := by
  intro s pa ty v h
  simp [readByte, writeByte, ifMemory, h]

/-- The read of a byte of backed memory is the read under its type. -/
theorem readByte_backed {s : State} {pa : PhysAddr} (ty : EffType) (h : s.platform.backing? pa.toNat = some .memory) :
    readByte pa ty s = readBacked pa ty s := by
  simp [readByte, ifMemory, h]

theorem writeByte_backed {s : State} {pa : PhysAddr} (ty : EffType) (v : Byte)
    (h : s.platform.backing? pa.toNat = some .memory) : writeByte pa ty v s = writeBacked pa ty v s := by
  simp [writeByte, ifMemory, h]

/-! Speculative fills. -/

/-- A fill leaves the caches, or adds a copy of memory's byte under a type cacheable for reads, where there was
none. -/
theorem State.fillByte_cases (s : State) (pa : PhysAddr) (ty : EffType) :
    s.fillByte pa ty = s ∨ ∃ b, ty.properties.cacheableReads = true ∧ s.cpu.cached? pa = none ∧
      s.mem.read pa.toNat = some b ∧
      s.fillByte pa ty = s.setLine { addr := pa, byte := b, type := ty, dirty := false } := by
  unfold State.fillByte
  split
  case isTrue h =>
    simp only [Bool.and_eq_true, Option.isNone_iff_eq_none] at h
    obtain ⟨⟨hread, _⟩, hnone⟩ := h
    split
    · rename_i b hb
      exact .inr ⟨b, hread, hnone, hb, rfl⟩
    · exact .inl rfl
  case isFalse => exact .inl rfl

/-- The types that are cacheable for reads (R62). -/
theorem cacheableReads_iff {ty : EffType} :
    ty.properties.cacheableReads = true ↔ ty = .wt ∨ ty = .wp ∨ ty = .wb := by
  cases ty <;> simp [EffType.properties, PatType.properties]

/-- Settles O42: a fill adds at most one copy, of a byte of which there was none to replace. -/
theorem cacheFillRespectsType : Obligations.CacheFillRespectsType := by
  intro s pa ty
  rcases s.fillByte_cases pa ty with e | ⟨b, hty, hnone, hb, e⟩ <;> rw [e]
  · exact ⟨fun _ hl => .inl hl, fun _ hl => hl⟩
  · refine ⟨fun l hl => ?_, fun l hl => ?_⟩
    · rcases List.mem_cons.1 hl with rfl | hl
      · exact .inr ⟨cacheableReads_iff.1 hty, rfl, rfl, rfl, hb⟩
      · exact .inl (List.mem_of_mem_filter hl)
    · have other : (l.addr == pa) = false := Bool.eq_false_iff.2 (List.find?_eq_none.1 hnone l hl)
      exact List.mem_cons_of_mem _ (List.mem_filter.2 ⟨hl, by simp [bne, other]⟩)

/-! Copies of a byte, the processor's own and the others'. -/

theorem State.mem_dirtyCopies {s : State} {pa : PhysAddr} {l : CacheLine} :
    l ∈ s.dirtyCopies pa ↔ ∃ c ∈ s.cpu :: s.others, c.cached? pa = some l ∧ l.dirty = true := by
  simp only [State.dirtyCopies, State.copies, List.mem_filter, List.mem_filterMap]
  exact ⟨fun ⟨⟨c, hc, hl⟩, hd⟩ => ⟨c, hc, hl, hd⟩, fun ⟨c, hc, hl, hd⟩ => ⟨⟨c, hc, hl⟩, hd⟩⟩

theorem State.dirtyCopies_eq_nil {s : State} {pa : PhysAddr}
    (h : ∀ c ∈ s.cpu :: s.others, ∀ l, c.cached? pa = some l → l.dirty = false) : s.dirtyCopies pa = [] :=
  List.eq_nil_iff_forall_not_mem.2 fun l hl => by
    obtain ⟨c, hc, hcached, hdirty⟩ := State.mem_dirtyCopies.1 hl
    rw [h c hc l hcached] at hdirty
    cases hdirty

/-- No other processor caches a byte for `pa` that memory has not received. -/
def State.OthersClean (s : State) (pa : PhysAddr) : Prop :=
  ∀ c ∈ s.others, ∀ l, c.cached? pa = some l → l.dirty = false

theorem State.OthersClean.pendingElsewhere {s : State} {pa : PhysAddr} (h : s.OthersClean pa) :
    s.pendingElsewhere pa = [] :=
  List.filterMap_eq_nil_iff.2 fun c hc => by
    cases e : c.cached? pa with
    | none => rfl
    | some l => simp [h c hc l e]

/-- The copy of another byte is not updated. -/
theorem Cpu.cached?_updateCopy_other (c : Cpu) {pa b : PhysAddr} (v : Byte) (received : Bool) (h : b ≠ pa) :
    (c.updateCopy pa v received).cached? b = c.cached? b := by
  simp only [Cpu.cached?, Cpu.updateCopy]
  induction c.cache with
  | nil => rfl
  | cons l ls ih =>
    by_cases hl : l.addr = pa
    · simp [hl, Ne.symm h, ih]
    · by_cases hb : l.addr = b <;> simp [hl, hb, h, ih]

/-- An updated copy that memory has received has the byte and is no longer waiting. -/
theorem Cpu.updateCopy_received {c : Cpu} {pa : PhysAddr} {v : Byte} {l : CacheLine}
    (h : (c.updateCopy pa v true).cached? pa = some l) : l.byte = v ∧ l.dirty = false := by
  rw [Cpu.cached?_updateCopy] at h
  obtain ⟨k, _, rfl⟩ := Option.map_eq_some_iff.1 h
  exact ⟨rfl, Bool.and_false _⟩

@[simp] theorem State.cached?_setLine_same (s : State) (l : CacheLine) :
    (s.setLine l).cpu.cached? l.addr = some l := by
  simp [Cpu.cached?]

/-! What a processor reads of its own. -/

/-- Byte `v` is what the processor's own accesses have left at `pa`: in memory, and in its own copy if it has one; or
in its own copy, which memory is still to receive. -/
def State.OwnByte (s : State) (pa : PhysAddr) (v : Byte) : Prop :=
  (s.mem.read pa.toNat = some v ∧ ∀ l, s.cpu.cached? pa = some l → l.byte = v) ∨
    ∃ l, s.cpu.cached? pa = some l ∧ l.byte = v ∧ l.dirty = true

theorem memoryByte_eq {s : State} {pa : PhysAddr} {v : Byte} (h : s.mem.read pa.toNat = some v) :
    memoryByte pa s = .ok v s := memoryByte_eq_ok.2 ⟨h, rfl⟩

/-- A choice between a copy and memory gives one of their bytes, and changes the count of free values only. -/
theorem copyOrMemory_cases {s : State} {pa : PhysAddr} {b : Byte} (l : CacheLine)
    (h : s.mem.read pa.toNat = some b) :
    copyOrMemory l pa s = .ok l.byte s.drawn ∨ copyOrMemory l pa s = .ok b s.drawn := by
  simp only [copyOrMemory, freeBool, Res.bind_ok]
  split
  · exact .inl rfl
  · exact .inr (memoryByte_eq h)

/-- A read that checks the caches gives the bytes that memory has not received, where they agree. -/
theorem readChecked_of_dirty {s : State} {pa : PhysAddr} {l : CacheLine} (hl : l ∈ s.dirtyCopies pa)
    (hall : ∀ k ∈ s.dirtyCopies pa, k.byte = l.byte) : readChecked pa s = .ok l.byte s := by
  unfold readChecked
  cases e : s.dirtyCopies pa with
  | nil => rw [e] at hl; cases hl
  | cons line rest =>
    rw [e] at hall
    obtain ⟨first, others⟩ := List.forall_mem_cons.1 hall
    have agree : rest.all (fun k => k.byte == line.byte) = true :=
      List.all_eq_true.2 fun k hk => by simp [others k hk, first]
    exact (if_pos agree).trans (by rw [first])

/-- Without a byte that memory has not received, a read that checks the caches gives memory's byte, or that of the
processor's own copy. -/
theorem readChecked_of_clean {s : State} {pa : PhysAddr} {b : Byte} (hclean : s.dirtyCopies pa = [])
    (hb : s.mem.read pa.toNat = some b) :
    ∃ x t, readChecked pa s = .ok x t ∧ (x = b ∨ ∃ l, s.cpu.cached? pa = some l ∧ x = l.byte) ∧
      (t = s ∨ t = s.drawn) := by
  simp only [readChecked, hclean]
  cases hown : s.cpu.cached? pa with
  | none => exact ⟨b, s, memoryByte_eq hb, .inl rfl, .inl rfl⟩
  | some l =>
    show ∃ x t, (if (s.mem.read pa.toNat).getD l.byte = l.byte then _ else _) = _ ∧ _
    split
    · exact ⟨l.byte, s, rfl, .inr ⟨l, rfl, rfl⟩, .inl rfl⟩
    · rcases copyOrMemory_cases l hb with e | e
      · exact ⟨l.byte, _, e, .inr ⟨l, rfl, rfl⟩, .inr rfl⟩
      · exact ⟨b, _, e, .inl rfl, .inr rfl⟩

/-- A read that checks the caches gives the processor's own byte and changes nothing, where no other processor holds
one that memory has not received. -/
theorem readChecked_own {s : State} {pa : PhysAddr} {v : Byte} (hclean : s.OthersClean pa) (hown : s.OwnByte pa v) :
    readChecked pa s = .ok v s := by
  by_cases hdirty : ∃ l, s.cpu.cached? pa = some l ∧ l.dirty = true
  case pos =>
    obtain ⟨l, hl, hd⟩ := hdirty
    have byte : l.byte = v := by
      rcases hown with ⟨_, hcopy⟩ | ⟨k, hk, hbyte, _⟩
      · exact hcopy l hl
      · rw [hl] at hk
        cases hk
        exact hbyte
    rw [← byte]
    refine readChecked_of_dirty (State.mem_dirtyCopies.2 ⟨_, List.mem_cons_self, hl, hd⟩) fun k hk => ?_
    obtain ⟨c, hc, hcached, hkd⟩ := State.mem_dirtyCopies.1 hk
    rcases List.mem_cons.1 hc with rfl | hc
    · rw [hl] at hcached
      cases hcached
      rfl
    · rw [hclean c hc k hcached] at hkd
      cases hkd
  case neg =>
    rcases hown with ⟨hmem, hcopy⟩ | ⟨l, hl, _, hd⟩
    · have none : s.dirtyCopies pa = [] := State.dirtyCopies_eq_nil fun c hc l hl => by
        rcases List.mem_cons.1 hc with rfl | hc
        · exact Bool.eq_false_iff.2 fun hd => hdirty ⟨l, hl, hd⟩
        · exact hclean c hc l hl
      simp only [readChecked, none]
      cases hc : s.cpu.cached? pa with
      | none => exact memoryByte_eq hmem
      | some l => simp [hmem, hcopy l hc]
    · exact absurd ⟨l, hl, hd⟩ hdirty

/-- A read under a cacheable type gives the processor's own byte that memory has not received. -/
theorem readCacheable_dirty {s : State} {pa : PhysAddr} {l : CacheLine} (ty : EffType) (hclean : s.OthersClean pa)
    (hl : s.cpu.cached? pa = some l) (hd : l.dirty = true) : readCacheable pa ty s = .ok l.byte s := by
  simp [readCacheable, ownOrElsewhere_eq hclean.pendingElsewhere, hl, hd]

/-- A read under a cacheable type gives the processor's own byte. -/
theorem readCacheable_own {s : State} {pa : PhysAddr} {v : Byte} (ty : EffType) (hclean : s.OthersClean pa)
    (hown : s.OwnByte pa v) : ∃ w, readCacheable pa ty s = .ok v w := by
  rcases hown with ⟨hmem, hcopy⟩ | ⟨l, hl, rfl, hd⟩
  · rw [readCacheable, ownOrElsewhere_eq hclean.pendingElsewhere]
    cases hc : s.cpu.cached? pa with
    | none => exact ⟨_, by simp only [memoryByte_eq hmem, Res.bind_ok, keepCopy, freeBool]; rfl⟩
    | some l =>
      obtain rfl := hcopy l hc
      cases hd : l.dirty with
      | true => exact ⟨s, by simp [hd]⟩
      | false =>
        rcases copyOrMemory_cases l hmem with e | e
        · exact ⟨_, by simpa [hd] using e⟩
        · exact ⟨_, by simpa [hd] using e⟩
  · exact ⟨s, readCacheable_dirty ty hclean hl hd⟩

/-- A read under WT, WP, WB or UC_PAGE gives the processor's own byte. -/
theorem readByte_own {s : State} {pa : PhysAddr} {v : Byte} {ty : EffType} (hty : ty ∈ [.wt, .wp, .wb, .ucPage])
    (hback : s.platform.backing? pa.toNat = some .memory) (hclean : s.OthersClean pa) (hown : s.OwnByte pa v) :
    ∃ w, readByte pa ty s = .ok v w := by
  rw [readByte_backed ty hback]
  simp only [List.mem_cons, List.not_mem_nil, or_false] at hty
  rcases hty with rfl | rfl | rfl | rfl
  · exact readCacheable_own _ hclean hown
  · exact readCacheable_own _ hclean hown
  · exact readCacheable_own _ hclean hown
  · exact ⟨s, readChecked_own hclean hown⟩

/-! What a write leaves for the processor's own reads, and in other caches. -/

/-- From `s` to `u` byte `v` at `pa` has reached memory: the processor's own copy, if it has one, holds it, and the
copies of the other processors were left or were updated with memory. -/
structure State.WroteThrough (s : State) (pa : PhysAddr) (v : Byte) (u : State) : Prop where
  mem : u.mem.read pa.toNat = some v
  own : ∀ l, u.cpu.cached? pa = some l → l.byte = v
  others : u.others = s.others ∨ u.others = s.others.map (·.updateCopy pa v true)

/-- From `s` to `u` byte `v` at `pa` has stayed in the processor's own caches. -/
structure State.WroteBack (s : State) (pa : PhysAddr) (v : Byte) (u : State) : Prop where
  own : ∃ l, u.cpu.cached? pa = some l ∧ l.byte = v ∧ l.dirty = true
  others : u.others = s.others

/-- Free values drawn before the write are no part of it. -/
theorem State.WroteThrough.of_drawn {s u : State} {pa : PhysAddr} {v : Byte} (h : s.drawn.WroteThrough pa v u) :
    s.WroteThrough pa v u := ⟨h.mem, h.own, h.others⟩

theorem State.wroteThrough_setByteAndCopies (s : State) (pa : PhysAddr) (v : Byte) :
    s.WroteThrough pa v (s.setByteAndCopies pa v) :=
  ⟨s.mem.read_write_same _ v, fun _ hl => (Cpu.updateCopy_received hl).1, .inr rfl⟩

theorem State.wroteThrough_setByteAndCopy (s : State) (pa : PhysAddr) (v : Byte) :
    s.WroteThrough pa v (s.setByteAndCopy pa v) :=
  ⟨s.mem.read_write_same _ v, fun _ hl => (Cpu.updateCopy_received hl).1, .inl rfl⟩

theorem writeToMemory_wroteThrough {s u : State} {pa : PhysAddr} {v : Byte} (h : writeToMemory pa v s = .ok () u) :
    s.WroteThrough pa v u := by
  rcases writeToMemory_cases pa v s with e | e | e <;> rw [e] at h <;> cases h
  · exact s.wroteThrough_setByteAndCopy pa v
  · exact (s.drawn.wroteThrough_setByteAndCopy pa v).of_drawn
  · exact (s.drawn.wroteThrough_setByteAndCopies pa v).of_drawn

/-- A write under WT, WP, WB or UC_PAGE reaches memory or, under WB, stays in the processor's own caches. -/
theorem writeByte_wrote {s u : State} {pa : PhysAddr} {v : Byte} {ty : EffType} (hty : ty ∈ [.wt, .wp, .wb, .ucPage])
    (h : writeByte pa ty v s = .ok () u) : s.WroteThrough pa v u ∨ s.WroteBack pa v u := by
  obtain ⟨_, h⟩ := ifMemory_eq_ok.1 h
  simp only [List.mem_cons, List.not_mem_nil, or_false] at hty
  rcases hty with rfl | rfl | rfl | rfl
  case inl => -- WT: memory, and the copy kept or made
    obtain ⟨_, t, hwrite, hkeep⟩ := Res.bind_eq_ok.1 h
    have ⟨mem, own, others⟩ := writeToMemory_wroteThrough hwrite
    refine .inl ?_
    split at hkeep
    · cases hkeep
      exact ⟨mem, own, others⟩
    · simp only [keepCopy, freeBool, Res.bind_ok] at hkeep
      split at hkeep <;> cases hkeep
      · refine ⟨mem, fun l hl => ?_, others⟩
        have made := State.cached?_setLine_same t.drawn { addr := pa, byte := v, type := .wt, dirty := false }
        rw [made] at hl
        cases hl
        rfl
      · exact ⟨mem, own, others⟩
  case inr.inl => -- WP: memory, and no copy
    obtain ⟨_, t, hwrite, hdrop⟩ := Res.bind_eq_ok.1 h
    have ⟨mem, own, others⟩ := writeToMemory_wroteThrough hwrite
    cases hdrop
    refine .inl ⟨mem, fun l hl => ?_, others⟩
    rw [State.cached?_dropLine_same] at hl
    cases hl
  case inr.inr.inl => -- WB: a copy that memory is to receive, or memory
    have back (t : State) (ht : t.others = s.others) :
        s.WroteBack pa v (t.setLine { addr := pa, byte := v, type := .wb, dirty := true }) :=
      ⟨⟨_, State.cached?_setLine_same t _, rfl, rfl⟩, ht⟩
    simp only [writeBacked, freeBool, Res.bind_ok] at h
    split at h
    · cases h
      exact .inr (back s rfl)
    · split at h
      · cases h
        exact .inr (back s.drawn rfl)
      · exact .inl (writeToMemory_wroteThrough h).of_drawn
  case inr.inr.inr => -- UC_PAGE: memory and every copy
    cases h
    exact .inl (s.wroteThrough_setByteAndCopies pa v)

theorem othersClean_updateCopy {s u : State} {pa : PhysAddr} {v : Byte}
    (h : u.others = s.others.map (·.updateCopy pa v true)) :
    ∀ c ∈ u.others, ∀ l, c.cached? pa = some l → l.byte = v ∧ l.dirty = false := by
  intro c hc l hl
  rw [h] at hc
  obtain ⟨d, _, rfl⟩ := List.mem_map.1 hc
  exact Cpu.updateCopy_received hl

/-- The first clause of O39: a write under WT, WP, WB or UC_PAGE is read under each of these types. -/
theorem readByte_after_writeByte {s u : State} {pa : PhysAddr} {ty ty' : EffType} {v : Byte}
    (hty : ty ∈ [.wt, .wp, .wb, .ucPage]) (hty' : ty' ∈ [.wt, .wp, .wb, .ucPage]) (hclean : s.OthersClean pa)
    (h : writeByte pa ty v s = .ok () u) : ∃ w, readByte pa ty' u = .ok v w := by
  obtain ⟨hback, _⟩ := ifMemory_eq_ok.1 h
  have q : Quiet s u := (framed_writeByte pa ty v s).of_eq_ok h
  have hback' : u.platform.backing? pa.toNat = some .memory := by rwa [q.platform]
  rcases writeByte_wrote hty h with ⟨mem, own, others⟩ | ⟨own, others⟩
  · refine readByte_own hty' hback' ?_ (.inl ⟨mem, own⟩)
    rcases others with e | e
    · rwa [State.OthersClean, e]
    · exact fun c hc l hl => (othersClean_updateCopy e c hc l hl).2
  · exact readByte_own hty' hback' (by rwa [State.OthersClean, others]) (.inr own)

/-- A byte of which no cache holds a copy is written to memory alone under a type that may ignore the caches. -/
theorem writeByte_uncached {s u : State} {pa : PhysAddr} {ty : EffType} {v : Byte} (hty : ty ∈ [.wc, .ucMtrr, .uc])
    (hnone : ∀ c ∈ s.cpu :: s.others, c.cached? pa = none) (h : writeByte pa ty v s = .ok () u) :
    u = s.setByte pa v := by
  obtain ⟨_, h⟩ := ifMemory_eq_ok.1 h
  simp only [List.mem_cons, List.not_mem_nil, or_false] at hty
  rcases hty with rfl | rfl | rfl <;>
    simp only [writeBacked, writeUnchecked, State.copies_eq_nil hnone, List.isEmpty_nil, if_true] at h <;>
    cases h <;> rfl

/-- The third clause of O39: a UC_PAGE write reaches memory and every copy of the byte, and nothing else. -/
theorem writeByte_ucPage {s : State} (pa : PhysAddr) (v : Byte)
    (hback : s.platform.backing? pa.toNat = some .memory) :
    ∃ u, writeByte pa .ucPage v s = .ok () u ∧ readByte pa .ucPage u = .ok v u ∧
      u.mem.read pa.toNat = some v ∧ (∀ a, a ≠ pa.toNat → u.mem.read a = s.mem.read a) ∧
      (u.cpu :: u.others).map Cpu.withoutBytes = (s.cpu :: s.others).map Cpu.withoutBytes ∧
      (∀ b, b ≠ pa → (u.cpu :: u.others).map (·.cached? b) = (s.cpu :: s.others).map (·.cached? b)) ∧
      ∀ c ∈ u.cpu :: u.others, ∀ l, c.cached? pa = some l → l.byte = v ∧ l.dirty = false := by
  have copies : ∀ c ∈ (s.setByteAndCopies pa v).cpu :: (s.setByteAndCopies pa v).others,
      ∀ l, c.cached? pa = some l → l.byte = v ∧ l.dirty = false := by
    refine List.forall_mem_cons.2 ⟨fun l hl => Cpu.updateCopy_received hl, ?_⟩
    exact othersClean_updateCopy (State.setByteAndCopies_others s pa v)
  have ⟨mem, own, _⟩ := s.wroteThrough_setByteAndCopies pa v
  have hread : readByte pa .ucPage (s.setByteAndCopies pa v) = .ok v (s.setByteAndCopies pa v) :=
    (readByte_backed (s := s.setByteAndCopies pa v) .ucPage hback).trans
      (readChecked_own (fun c hc l hl => (copies c (List.mem_cons_of_mem _ hc) l hl).2) (.inl ⟨mem, own⟩))
  refine ⟨s.setByteAndCopies pa v, writeByte_backed .ucPage v hback, hread, mem,
    fun a ha => s.mem.read_write_other v ha, ?_, fun b hb => ?_, copies⟩
  · simp [Function.comp_def]
  · simp [Function.comp_def, Cpu.cached?_updateCopy_other _ _ _ hb]

/-- Settles O39: a completed write leaves its byte where the processor's own next read finds it. -/
theorem ownWriteIsSeen : Obligations.OwnWriteIsSeen := by
  refine ⟨fun s u pa ty ty' v hty hty' hclean h => readByte_after_writeByte hty hty' hclean h,
    fun s u pa ty ty' v hty hnone h => ?_, fun s pa v hback => writeByte_ucPage pa v hback,
    fun s u pa ty v hty h => ?_, fun s pa c l hback hc hl hd hall => ?_, fun s pa b hback hclean hb => ?_,
    fun s pa ty l hback hty hl hd hclean => ?_⟩
  · obtain ⟨hback, _⟩ := ifMemory_eq_ok.1 h
    obtain rfl := writeByte_uncached hty hnone h
    have holds : (s.setByte pa v).holdsAt pa v := ⟨hback, s.mem.read_write_same _ v, hnone⟩
    obtain ⟨w, hread, _⟩ := readByte_holdsAt ty' holds
    exact ⟨w, hread⟩
  · have hty' : ty ∈ [.wt, .wp, .wb, .ucPage] := List.mem_append_left [EffType.ucPage] hty
    rcases writeByte_wrote hty' h with ⟨mem, _, others | others⟩ | ⟨_, others⟩
    · exact .inl others
    · exact .inr ⟨mem, othersClean_updateCopy others⟩
    · exact .inl others
  · rw [readByte_backed _ hback]
    refine readChecked_of_dirty (State.mem_dirtyCopies.2 ⟨c, hc, hl, hd⟩) fun k hk => ?_
    obtain ⟨d, hd, hcached, hdirty⟩ := State.mem_dirtyCopies.1 hk
    rcases hall d hd k hcached with same | hclean
    · exact same
    · rw [hclean] at hdirty
      cases hdirty
  · obtain ⟨x, t, hread, hx, ht⟩ := readChecked_of_clean (State.dirtyCopies_eq_nil hclean) hb
    refine ⟨x, t, (readByte_backed _ hback).trans hread, hx, ?_⟩
    rcases ht with rfl | rfl
    · exact ⟨rfl, rfl, rfl⟩
    · exact ⟨rfl, rfl, rfl⟩
  · rw [readByte_backed _ hback]
    rcases hty with rfl | rfl | rfl
    · exact readCacheable_dirty _ hclean hl hd
    · exact readCacheable_dirty _ hclean hl hd
    · exact readCacheable_dirty _ hclean hl hd

end Sys2Proof.Machine
end

section
/-! Loads, stores and fetches as physical accesses at the translated addresses (spec/20_memory.md R70, R71, R78;
log 27, log 32, log 35). -/

namespace Sys2Proof.Machine

open Sys2Proof

@[simp] theorem Res.bind_ok_self {α : Type} (r : Res α) : (r.bind fun a t => .ok a t) = r := by
  cases r <;> rfl

/-! The parts of an access. -/

/-- An access of no bytes has no parts. -/
theorem accessParts_no_bytes (access : Access) (fuel : Nat) (la : LinAddr) (s : State) :
    accessParts access fuel la 0 s = .ok [] s := by
  cases fuel <;> rfl

/-- The first part of an access, made through the page it opens (R71). -/
theorem accessParts_of_opens {access : Access} {la : LinAddr} {s t : State} {tr : Translation}
    {page : Option PageView} {ty : EffType} {n k : Nat} (fuel : Nat) (h : s.opens access la tr page ty t)
    (hn : n ≠ 0) (hk : bytesInPage tr la n = k) :
    accessParts access (fuel + 1) la n s =
      (accessParts access fuel (la + BitVec.ofNat 32 k) (n - k) t).bind fun ps u =>
        .ok ({ la := la, pa := tr.pa, type := ty, size := k, undef := undefinedAccess t la tr.pa k page ty } :: ps)
          u := by
  obtain ⟨r, htr, hpage, hty⟩ := h
  subst hk
  simp only [accessParts, if_neg hn, htr, Res.bind_ok, hpage, hty]

/-- An access within one page is one part. -/
theorem accessParts_one {access : Access} {la : LinAddr} {s t : State} {tr : Translation} {page : Option PageView}
    {ty : EffType} {n : Nat} (h : s.opens access la tr page ty t) (hn : 0 < n) (hk : bytesInPage tr la n = n) :
    accessParts access n la n s =
      .ok [{ la := la, pa := tr.pa, type := ty, size := n, undef := undefinedAccess t la tr.pa n page ty }] t := by
  obtain ⟨fuel, rfl⟩ := Nat.exists_eq_succ_of_ne_zero (Nat.pos_iff_ne_zero.1 hn)
  simp [accessParts_of_opens fuel h (Nat.succ_ne_zero _) hk, accessParts_no_bytes]

/-- At least one byte of an access lies in the page of its address. -/
theorem bytesInPage_pos (tr : Translation) (la : LinAddr) {n : Nat} (hn : 0 < n) : 0 < bytesInPage tr la n := by
  unfold bytesInPage
  split
  · rename_i v _
    have inside := Nat.mod_lt la.toNat (Nat.two_pow_pos (pageBits v.size))
    omega
  · have := la.isLt
    omega

/-- An access over the end of a page into the next one is two parts (R71). -/
theorem accessParts_two {access : Access} {la : LinAddr} {s t t' : State} {tr tr' : Translation}
    {page page' : Option PageView} {ty ty' : EffType} {n k : Nat} (hk : k = bytesInPage tr la n) (hkn : k < n)
    (h : s.opens access la tr page ty t) (h' : t.opens access (la + BitVec.ofNat 32 k) tr' page' ty' t')
    (hk' : bytesInPage tr' (la + BitVec.ofNat 32 k) (n - k) = n - k) :
    accessParts access n la n s = .ok
      [{ la := la, pa := tr.pa, type := ty, size := k, undef := undefinedAccess t la tr.pa k page ty },
       { la := la + BitVec.ofNat 32 k, pa := tr'.pa, type := ty', size := n - k,
         undef := undefinedAccess t' (la + BitVec.ofNat 32 k) tr'.pa (n - k) page' ty' }] t' := by
  have pos : 0 < k := hk ▸ bytesInPage_pos tr la (by omega)
  obtain ⟨fuel, rfl⟩ : ∃ fuel, n = fuel + 1 + 1 := ⟨n - 2, by omega⟩
  have rest : fuel + 1 + 1 - k ≠ 0 := by omega
  rw [accessParts_of_opens (fuel + 1) h (by omega) hk.symm, accessParts_of_opens fuel h' rest hk', Nat.sub_self,
    accessParts_no_bytes]
  rfl

/-- The addresses of a part as numbers. -/
theorem Part.addresses_eq (p : Part) :
    p.addresses = (List.range p.size).map fun i => (p.pa + BitVec.ofNat 36 i).toNat := by
  simp [Part.addresses, Part.physAddrs, physSpan]

/-! Reading and writing the parts. -/

/-- Where every processor has the same memory types a load or store goes on (R104). -/
theorem ifTypesAgree_of_same {α : Type} {s : State} (as : List PhysAddr) (k : State → Res α)
    (h : s.sameMemoryTypes) : ifTypesAgree as s k = k s := by
  have none : as.find? (fun pa => s.others.any fun c => s.cpu.typesDifferAt c pa) = none :=
    List.find?_eq_none.2 fun pa _ => by simpa using fun c hc => h c hc pa
  simp [ifTypesAgree, none]

theorem memRead_of_parts {s t : State} {la : LinAddr} {n : Nat} {ps : List Part}
    (h : accessParts .read n la n s = .ok ps t) (hsame : t.sameMemoryTypes) : memRead la n s = readParts ps t := by
  rw [memRead, h, Res.bind_ok, ifTypesAgree_of_same _ _ hsame]

theorem memWrite_of_parts {s t : State} {la : LinAddr} {bs : List Byte} {ps : List Part}
    (h : accessParts .write bs.length la bs.length s = .ok ps t) (hsame : t.sameMemoryTypes) :
    memWrite la bs s = writeParts ps bs t := by
  rw [memWrite, h, Res.bind_ok, ifTypesAgree_of_same _ _ hsame]

/-- A part that is not undefined is read as its bytes are. -/
theorem readPart_defined {p : Part} (h : p.undef = false) (s : State) :
    readPart p s = physRead p.pa p.size p.type s := by
  simp [readPart, h]

theorem readParts_singleton (p : Part) (s : State) : readParts [p] s = readPart p s := by
  simp [readParts]

/-- A part that is not undefined is written, and its addresses are noted (log 27). -/
theorem writePart_defined {p : Part} {bs : List Byte} {s u : State} (h : p.undef = false)
    (hw : physWrite p.pa p.type (bs.take p.size) s = .ok () u) :
    writePart p bs s = .ok () (u.noteStored p.addresses) := by
  simp [writePart, hw, h]

/-- A store within one page whose physical write completes is that write, with its addresses noted. -/
theorem memWrite_one_page {s t u : State} {la : LinAddr} {bs : List Byte} {tr : Translation} {page : Option PageView}
    {ty : EffType} (hbs : bs ≠ []) (hk : bytesInPage tr la bs.length = bs.length)
    (h : s.opens .write la tr page ty t) (hdef : undefinedAccess t la tr.pa bs.length page ty = false)
    (hsame : t.sameMemoryTypes) (hw : physWrite tr.pa ty bs t = .ok () u) :
    memWrite la bs s =
      .ok () (u.noteStored ((List.range bs.length).map fun i => (tr.pa + BitVec.ofNat 36 i).toNat)) := by
  rw [memWrite_of_parts (accessParts_one h (List.length_pos_iff.2 hbs) hk) hsame]
  simp only [writeParts]
  rw [writePart_defined hdef (by rwa [List.take_length]), Part.addresses_eq]
  rfl

/-- A load within one page is the physical read. -/
theorem memRead_one_page {s t : State} {la : LinAddr} {n : Nat} {tr : Translation} {page : Option PageView}
    {ty : EffType} (hn : 0 < n) (hk : bytesInPage tr la n = n) (h : s.opens .read la tr page ty t)
    (hdef : undefinedAccess t la tr.pa n page ty = false) (hsame : t.sameMemoryTypes) :
    memRead la n s = physRead tr.pa n ty t := by
  rw [memRead_of_parts (accessParts_one h hn hk) hsame, readParts_singleton, readPart_defined hdef]

/-- A fetch within one page of bytes that the program did not store to is the physical read. -/
theorem fetchBytes_one_page {s t : State} {tr : Translation} {page : Option PageView} {ty : EffType}
    (hpc : s.cpu.pc ≠ 0xFFFFFFFF#32) (hk : bytesInPage tr s.cpu.pc 2 = 2)
    (h : s.opens .fetch s.cpu.pc tr page ty t) (hdef : undefinedAccess t s.cpu.pc tr.pa 2 page ty = false)
    (h0 : tr.pa.toNat ∉ t.stored) (h1 : (tr.pa + 1#36).toNat ∉ t.stored) :
    fetchBytes s = physRead tr.pa 2 ty t := by
  have parts := accessParts_one h (by decide) hk
  have notStored : firstStored t
      [{ la := s.cpu.pc, pa := tr.pa, type := ty, size := 2,
         undef := undefinedAccess t s.cpu.pc tr.pa 2 page ty }] = none := by
    simp [firstStored, Part.addresses, Part.physAddrs, physSpan_two, -BitVec.toNat_add, h0, h1]
  simp only [fetchBytes, fetchParts, if_neg hpc, instrLength, parts, Res.bind_ok, notStored, readParts_singleton]
  exact readPart_defined hdef t

/-- Settles O47: an access is formed of the parts of its pages, and each is moved in order. -/
theorem accessMovesTranslatedBytes : Obligations.AccessMovesTranslatedBytes := by
  refine ⟨fun s t la n tr page ty hn hk h hdef hsame => memRead_one_page hn hk h hdef hsame,
    fun s t u la bs tr page ty hbs hk h hdef hsame hw => memWrite_one_page hbs hk h hdef hsame hw,
    fun s t tr page ty hpc hk h hdef h0 h1 => fetchBytes_one_page hpc hk h hdef h0 h1,
    fun s t t' access la n k tr tr' page page' ty ty' hk hkn h h' hk' => accessParts_two hk hkn h h' hk',
    fun s t u w la n p q bs cs hparts hp hq hsame hbs hcs => ?_,
    fun s t u w la p q bs cs hparts hp hq hps hqs hsame hbs hcs => ?_⟩
  · rw [memRead_of_parts hparts hsame, readParts]
    simp only [readPart_defined hp, hbs, Res.bind_ok, readParts_singleton, readPart_defined hq, hcs]
  · have first : writePart p (bs ++ cs) t = .ok () (u.noteStored p.addresses) :=
      writePart_defined hp (by rwa [hps, List.take_left])
    have second : writePart q cs (u.noteStored p.addresses) = .ok () (w.noteStored q.addresses) :=
      writePart_defined hq (by rwa [hqs, List.take_length])
    simp only [memWrite_of_parts hparts hsame, writeParts, first, Res.bind_ok, hps, List.drop_left, second]

end Sys2Proof.Machine
end

section
/-! Loads and stores with paging and the MTRRs disabled (spec/20_memory.md R34, R38, R70). -/

namespace Sys2Proof.Machine

open Sys2Proof

/-- Bytes written leave every address that is none of theirs. -/
theorem Memory.read_writeBytes_other (bs : List Byte) (m : Memory) (a : Nat) {b : Nat}
    (h : ∀ i < bs.length, b ≠ a + i) : (m.writeBytes a bs).read b = m.read b := by
  induction bs generalizing m a with
  | nil => rfl
  | cons v vs ih =>
    have first : b ≠ a := h 0 (Nat.succ_pos _)
    have rest : ∀ i < vs.length, b ≠ a + 1 + i := fun i hi => by
      have := h (i + 1) (Nat.succ_lt_succ hi)
      omega
    exact (ih _ _ rest).trans (m.read_write_other v first)

/-- Bytes written are read, the first at the lowest address. -/
theorem Memory.read_writeBytes (bs : List Byte) (m : Memory) (a : Nat) {i : Nat} (hi : i < bs.length) :
    (m.writeBytes a bs).read (a + i) = some bs[i] := by
  induction bs generalizing m a i with
  | nil => cases hi
  | cons v vs ih =>
    cases i with
    | zero =>
      have kept := Memory.read_writeBytes_other vs (m.write a v) (a + 1) (b := a) (by omega)
      exact kept.trans (m.read_write_same a v)
    | succ i =>
      have later := ih (m.write a v) (a + 1) (Nat.lt_of_succ_lt_succ hi)
      rwa [Nat.add_right_comm] at later

/-- With paging disabled an access that does not pass the top of the address space is within one part. -/
theorem bytesInPage_paging_off {la : LinAddr} {n : Nat} (pa : PhysAddr) (h : la.toNat + n ≤ 2 ^ 32) :
    bytesInPage ⟨pa, none⟩ la n = n :=
  Nat.min_eq_left (by omega)

/-- With paging and the MTRRs disabled an access is made at its own address, under UC (R38, R66). -/
theorem opens_paging_off {s : State} (access : Access) (la : LinAddr) (hpg : s.cpu.pg = false)
    (hen : s.cpu.mtrrEnabled = false) : s.opens access la ⟨la.setWidth 36, none⟩ none .uc s :=
  ⟨s, translate_paging_off hpg, rfl, effectiveType_eq_ok.2 ⟨by simp [effectiveType?, hen], rfl⟩⟩

/-- Where the processors agree in their memory types and one has its MTRRs disabled, so have all. -/
theorem State.sameMemoryTypes.mtrrEnabled {s : State} (h : s.sameMemoryTypes) (hen : s.cpu.mtrrEnabled = false) :
    ∀ c ∈ s.cpu :: s.others, c.mtrrEnabled = false ∨ c.cd = true := by
  refine List.forall_mem_cons.2 ⟨.inl hen, fun c hc => .inl ?_⟩
  have agree := h c hc 0#36
  simp only [Cpu.typesDifferAt, Bool.or_eq_false_iff, decide_eq_false_iff_not, not_not] at agree
  obtain ⟨⟨_, enabled⟩, _⟩ := agree
  rw [← enabled, hen]

/-- Bytes that no cache holds are written to memory under UC, and nothing else changes. -/
theorem physWrite_uc_uncached {bs : List Byte} {s : State} {pa : PhysAddr} (hlen : pa.toNat + bs.length < 2 ^ 36)
    (hback : ∀ i < bs.length, s.platform.backing? (pa.toNat + i) = some .memory)
    (hnone : ∀ c ∈ s.cpu :: s.others, c.cache = []) :
    physWrite pa .uc bs s = .ok () { s with mem := s.mem.writeBytes pa.toNat bs } := by
  induction bs generalizing s pa with
  | nil => rfl
  | cons v vs ih =>
    have next : (pa + 1#36).toNat = pa.toNat + 1 := by
      rw [List.length_cons] at hlen
      bv_omega
    have uncached : ∀ c ∈ s.cpu :: s.others, c.cached? pa = none := fun c hc => by simp [Cpu.cached?, hnone c hc]
    have first := writeByte_uc_uncached v (hback 0 (Nat.succ_pos _)) uncached
    rw [physWrite, first, Res.bind_ok, ih (s := s.setByte pa v), next]
    · rfl
    · rw [next]
      rw [List.length_cons] at hlen
      omega
    · intro i hi
      rw [next, Nat.add_right_comm]
      exact hback (i + 1) (Nat.succ_lt_succ hi)
    · exact hnone

/-- The number of byte `i` of an access below the top of the linear address space. -/
theorem toNat_setWidth_add {la : LinAddr} {i : Nat} (h : la.toNat + i < 2 ^ 32) :
    ((la.setWidth 36 : PhysAddr) + BitVec.ofNat 36 i).toNat = la.toNat + i := by
  rw [BitVec.toNat_add, BitVec.toNat_setWidth, BitVec.toNat_ofNat]
  omega

/-- Settles O46: the store and the load are one part each, under UC at the linear address itself. -/
theorem storeThenLoadReturnsBytes : Obligations.StoreThenLoadReturnsBytes := by
  intro s la bs hpg hen hsame hremaps hcaches hbs htop hback u
  have number : (la.setWidth 36 : PhysAddr).toNat = la.toNat := by
    rw [BitVec.toNat_setWidth]
    omega
  have inside (i : Nat) (hi : i < bs.length) : ((la.setWidth 36 : PhysAddr) + BitVec.ofNat 36 i).toNat = la.toNat + i :=
    toNat_setWidth_add (by omega)
  have addresses : ((List.range bs.length).map fun i => ((la.setWidth 36 : PhysAddr) + BitVec.ofNat 36 i).toNat) =
      (List.range bs.length).map (la.toNat + ·) :=
    List.map_congr_left fun i hi => inside i (List.mem_range.1 hi)
  have defined (t : State) (hall : ∀ c ∈ t.cpu :: t.others, c.mtrrEnabled = false ∨ c.cd = true)
      (hr : t.remaps = []) : undefinedAccess t la (la.setWidth 36) bs.length none .uc = false := by
    simp [undefinedAccess, undefinedAt_of_all_uc hall hr]
  have one := bytesInPage_paging_off (la.setWidth 36) htop
  have hall := hsame.mtrrEnabled hen
  have written : physWrite (la.setWidth 36) .uc bs s = .ok () { s with mem := s.mem.writeBytes la.toNat bs } := by
    have := physWrite_uc_uncached (pa := la.setWidth 36) (by omega) (fun i hi => number.symm ▸ hback i hi) hcaches
    rwa [number] at this
  have holds : u.holdsBytes (la.setWidth 36) bs := fun i hi => by
    refine ⟨?_, ?_, fun c hc => by simp [Cpu.cached?, hcaches c hc]⟩
    · rw [inside i hi]
      exact hback i hi
    · rw [inside i hi]
      exact Memory.read_writeBytes bs s.mem la.toNat hi
  refine ⟨?_, ?_, fun a ha => Memory.read_writeBytes_other bs s.mem la.toNat ha⟩
  · rw [memWrite_one_page hbs one (opens_paging_off .write la hpg hen) (defined s hall hremaps) hsame written,
      addresses]
    rfl
  · have opens : u.opens .read la ⟨la.setWidth 36, none⟩ none .uc u := opens_paging_off .read la hpg hen
    obtain ⟨t, hread, same⟩ := physRead_holdsBytes .uc (by omega) holds
    rw [memRead_one_page (List.length_pos_iff.2 hbs) one opens (defined u hall hremaps) hsame, hread, same rfl]

end Sys2Proof.Machine
end

section
/-! Placed and stored instruction bytes (spec/20_memory.md R78; spec/30_encoding.md R84; log 27, log 31). -/

namespace Sys2Proof.Machine

open Sys2Proof

/-- Where a part has an address that was stored to, a first such address is found. -/
theorem firstStored_eq_some {t : State} {ps : List Part} (h : ∃ p ∈ ps, ∃ a ∈ p.addresses, a ∈ t.stored) :
    ∃ pa : PhysAddr, firstStored t ps = some pa.toNat ∧ pa.toNat ∈ t.stored := by
  obtain ⟨p, hp, a, ha, hstored⟩ := h
  have found : (firstStored t ps).isSome = true :=
    List.find?_isSome.2 ⟨a, List.mem_flatMap.2 ⟨p, hp, ha⟩, by simpa using hstored⟩
  obtain ⟨b, hb⟩ := Option.isSome_iff_exists.1 found
  obtain ⟨q, _, hq⟩ := List.mem_flatMap.1 (List.mem_of_find?_eq_some hb)
  obtain ⟨pa, _, rfl⟩ := List.mem_map.1 hq
  exact ⟨pa, hb, by simpa using List.find?_some hb⟩

/-- Settles O53: the record of stores is looked up before a byte is read. -/
theorem selfModifyingFetchRefused : Obligations.SelfModifyingFetchRefused := by
  intro s t ps hdue hparts hstored
  obtain ⟨pa, hfirst, hmem⟩ := firstStored_eq_some hstored
  refine ⟨pa, hmem, ?_⟩
  have fetch : fetchInstr s.nextTurn = .refused (.selfModifying pa) := by
    simp [fetchInstr, fetchBytes, hparts, hfirst]
  simp [step_of_due hdue, runInstr, fetch]

/-- Byte `b` was put at physical address `pa` from outside: memory holds it, no cache has a copy, and the program did
not store it (log 31). -/
structure State.Placed (s : State) (pa : PhysAddr) (b : Byte) : Prop where
  mem : s.mem.read pa.toNat = some b
  notStored : pa.toNat ∉ s.stored
  uncached : ∀ c ∈ s.cpu :: s.others, c.cached? pa = none

/-- The processors after a byte is placed: none has a copy of it. -/
theorem State.placeByte_processors (s : State) (pa : PhysAddr) (v : Byte) :
    (s.placeByte pa v).cpu :: (s.placeByte pa v).others =
      (s.cpu :: s.others).map fun c => { c with cache := c.cache.filter fun l => l.addr != pa } := rfl

theorem State.placed_placeByte (s : State) (pa : PhysAddr) (v : Byte) : (s.placeByte pa v).Placed pa v where
  mem := s.mem.read_write_same _ v
  notStored := by simp [State.placeByte]
  uncached := by
    rw [State.placeByte_processors]
    exact List.forall_mem_map.2 fun c _ => by simp [Cpu.cached?]

/-- A byte that was placed stays placed when another is. -/
theorem State.Placed.placeByte_other {s : State} {pa qa : PhysAddr} {b : Byte} (h : s.Placed pa b) (hne : pa ≠ qa)
    (v : Byte) : (s.placeByte qa v).Placed pa b where
  mem := (s.mem.read_write_other v fun heq => hne (BitVec.eq_of_toNat_eq heq)).trans h.mem
  notStored := fun hmem => h.notStored (List.mem_of_mem_filter hmem)
  uncached := by
    rw [State.placeByte_processors]
    refine List.forall_mem_map.2 fun c hc => List.find?_eq_none.2 fun l hl => ?_
    exact List.find?_eq_none.1 (h.uncached c hc) l (List.mem_of_mem_filter hl)

/-- With paging disabled the next fetch reads at `pc` and `pc + 1`. -/
theorem State.fetchAddresses_paging_off {s : State} (hpg : s.cpu.pg = false) (hpc : s.cpu.pc ≠ 0xFFFFFFFF#32)
    (hcc : s.cpu.mtrrEnabled = false ∨ s.cpu.cd = true ∨ s.cpu.nw = false) :
    s.fetchAddresses = [s.cpu.pc.toNat, (s.cpu.pc + 1#32).toNat] := by
  obtain ⟨ty, hty, _⟩ := effectiveType?_paging_off (c := s.cpu) (s.cpu.pc.setWidth 36) hcc
  have opens : s.opens .fetch s.cpu.pc ⟨s.cpu.pc.setWidth 36, none⟩ none ty s :=
    ⟨s, translate_paging_off hpg, rfl, effectiveType_eq_ok.2 ⟨hty, rfl⟩⟩
  have below : s.cpu.pc.toNat + 2 ≤ 2 ^ 32 := by bv_omega
  have parts := accessParts_one opens (by decide) (bytesInPage_paging_off _ below)
  have n0 : (s.cpu.pc.setWidth 36 : PhysAddr).toNat = s.cpu.pc.toNat := by bv_omega
  have n1 : (s.cpu.pc.setWidth 36 + 1#36 : PhysAddr).toNat = (s.cpu.pc + 1#32).toNat := by bv_omega
  simp [State.fetchAddresses, fetchParts, hpc, instrLength, parts, Part.addresses, Part.physAddrs, physSpan_two, n0, n1]

/-- The state in which two bytes were placed at `pc` and `pc + 1` with paging disabled, and no turn is pending. -/
def State.placedAtPc (s : State) (b0 b1 : Byte) : State :=
  (({ s with pending := [] } : State).placeByte (s.cpu.pc.setWidth 36) b0).placeByte
    ((s.cpu.pc + 1#32).setWidth 36) b1

theorem State.loadAtFetch_two {s : State} (b0 b1 : Byte) (hpg : s.cpu.pg = false) (hpc : s.cpu.pc ≠ 0xFFFFFFFF#32)
    (hcc : s.cpu.mtrrEnabled = false ∨ s.cpu.cd = true ∨ s.cpu.nw = false) :
    s.loadAtFetch [b0, b1] = s.placedAtPc b0 b1 := by
  have addresses : ({ s with pending := [] } : State).fetchAddresses = [s.cpu.pc.toNat, (s.cpu.pc + 1#32).toNat] :=
    State.fetchAddresses_paging_off hpg hpc hcc
  simp [State.loadAtFetch, addresses, State.placeBytes, State.placedAtPc, -BitVec.toNat_add]

/-- Both bytes stand where they were placed: the second address is another one. -/
theorem State.placed_placedAtPc (s : State) (b0 b1 : Byte) :
    (s.placedAtPc b0 b1).Placed (s.cpu.pc.setWidth 36) b0 ∧
      (s.placedAtPc b0 b1).Placed ((s.cpu.pc + 1#32).setWidth 36) b1 := by
  have apart : (s.cpu.pc.setWidth 36 : PhysAddr) ≠ (s.cpu.pc + 1#32).setWidth 36 := by bv_omega
  exact ⟨(State.placed_placeByte _ _ b0).placeByte_other apart b1, State.placed_placeByte _ _ b1⟩

/-- The table's numbers are the encodings of the instructions (R81). -/
theorem tableBytes_decode {i : Instr} {w : Nat}
    (h : (i, w) ∈ [(Instr.cpuid, 0x0FA2), (.rdmsr, 0x0F32), (.wrmsr, 0x0F30)]) :
    ∃ b0 b1, tableBytes 16 w = [b0, b1] ∧ decode [b0, b1] = .ok (i, []) := by
  simp only [List.mem_cons, Prod.mk.injEq, List.not_mem_nil, or_false] at h
  rcases h with ⟨rfl, rfl⟩ | ⟨rfl, rfl⟩ | ⟨rfl, rfl⟩
  · exact ⟨0x0F#8, 0xA2#8, by decide, rfl⟩
  · exact ⟨0x0F#8, 0x32#8, by decide, rfl⟩
  · exact ⟨0x0F#8, 0x30#8, by decide, rfl⟩

/-- Settles O52: the placed bytes meet what the step with paging disabled asks of its two bytes. -/
theorem placedInstructionRunsNext : Obligations.PlacedInstructionRunsNext := by
  intro s i w hiw hpg hpc hcc hback0 hback1 hdef
  obtain ⟨b0, b1, hbytes, hdec⟩ := tableBytes_decode hiw
  have load : s.withFetchWord 16 w = s.placedAtPc b0 b1 := by
    rw [State.withFetchWord, hbytes, State.loadAtFetch_two b0 b1 hpg hpc hcc]
  rw [load] at hdef ⊢
  obtain ⟨placed0, placed1⟩ := s.placed_placedAtPc b0 b1
  have number (a : LinAddr) : (a.setWidth 36 : PhysAddr).toNat = a.toNat := by
    rw [BitVec.toNat_setWidth]
    omega
  obtain ⟨t, hstep, hregs, _, _, _, hsame⟩ :=
    stepWithPagingDisabled.1 (s.placedAtPc b0 b1) b0 b1 i rfl hpg hpc hcc hdec fun a b hab => by
      rcases hab with hab | hab <;> cases hab
      · exact ⟨number s.cpu.pc ▸ placed0.mem, hback0, number s.cpu.pc ▸ placed0.notStored,
          hdef _ List.mem_cons_self, placed0.uncached⟩
      · exact ⟨number (s.cpu.pc + 1#32) ▸ placed1.mem, hback1, number (s.cpu.pc + 1#32) ▸ placed1.notStored,
          hdef _ (List.mem_cons_of_mem _ List.mem_cons_self), placed1.uncached⟩
  exact ⟨t, hstep, hregs, hsame⟩

end Sys2Proof.Machine
end

section
/-! The decoder and the encoder, and the step that runs what was decoded (spec/30_encoding.md R79 to R84; log 9). -/

namespace Sys2Proof

theorem encodingShape (i : Instr) : Laws.EncodingShape.Statement i := by
  cases i with
  | cpuid => exact Laws.EncodingShape.cpuid
  | rdmsr => exact Laws.EncodingShape.rdmsr
  | wrmsr => exact Laws.EncodingShape.wrmsr

/-- An encoding is decoded, and the bytes after it are left over (R81). -/
@[simp] theorem decode_encode_append (i : Instr) (rest : List Byte) : decode (encode i ++ rest) = .ok (i, rest) := by
  cases i <;> rfl

/-- All that the decoder can answer: the instruction whose encoding the bytes begin with, or one of the two refusals
(R79). -/
theorem decode_cases (bs : List Byte) :
    (∃ i rest, bs = encode i ++ rest) ∨
      (bs.length < 2 ∧ decode bs = .error .truncated) ∨
        ∃ b0 b1 rest, bs = b0 :: b1 :: rest ∧ decode bs = .error (.notInAnySource b0 b1) := by
  match bs with
  | [] => exact .inr (.inl ⟨by decide, rfl⟩)
  | [_] => exact .inr (.inl ⟨by simp, rfl⟩)
  | b0 :: b1 :: rest =>
    by_cases h0 : b0 = 0x0F#8
    · subst h0
      by_cases hcpuid : b1 = 0xA2#8
      · exact .inl ⟨.cpuid, rest, by rw [hcpuid]; rfl⟩
      by_cases hrdmsr : b1 = 0x32#8
      · exact .inl ⟨.rdmsr, rest, by rw [hrdmsr]; rfl⟩
      by_cases hwrmsr : b1 = 0x30#8
      · exact .inl ⟨.wrmsr, rest, by rw [hwrmsr]; rfl⟩
      exact .inr (.inr ⟨_, _, _, rfl, by simp [decode, hcpuid, hrdmsr, hwrmsr]⟩)
    · exact .inr (.inr ⟨_, _, _, rfl, by simp [decode, h0]⟩)

/-- The decoder is the inverse of the encoder. -/
theorem decode_eq_ok {bs rest : List Byte} {i : Instr} : decode bs = .ok (i, rest) ↔ bs = encode i ++ rest := by
  refine ⟨fun h => ?_, fun h => h ▸ decode_encode_append i rest⟩
  rcases decode_cases bs with ⟨j, after, rfl⟩ | ⟨_, hrefused⟩ | ⟨_, _, _, _, hrefused⟩
  · rw [decode_encode_append] at h
    cases h
    rfl
  · rw [hrefused] at h
    cases h
  · rw [hrefused] at h
    cases h

/-- Behind a further byte an encoding's first byte is read as the second of a pair, and no pair has it there. -/
theorem decode_cons_encode (b : Byte) (i : Instr) : decode (b :: encode i) = .error (.notInAnySource b 0x0F#8) := by
  cases i <;> simp [decode, encode]

/-- Settles O4: what the decoder can answer, and the inverse on what it admits. -/
theorem decodeAdmitsExactlyTheEncodings : Obligations.DecodeAdmitsExactlyTheEncodings := by
  refine ⟨fun bs i rest => ?_, fun bs hnone => ?_, decode_cons_encode⟩
  · obtain ⟨_, _, hwf⟩ := encodingShape i
    rw [decode_eq_ok, and_iff_right hwf]
  · exact (decode_cases bs).resolve_left fun ⟨i, rest, hbs⟩ => hnone i rest hbs

end Sys2Proof

namespace Sys2Proof.Machine

open Sys2Proof

/-- The table's numbers decode to their instructions (R81). -/
theorem decodeTableWord_eq {i : Instr} {w : Nat}
    (h : (i, w) ∈ [(Instr.cpuid, 0x0FA2), (.rdmsr, 0x0F32), (.wrmsr, 0x0F30)]) : decodeTableWord 16 w = some i := by
  obtain ⟨b0, b1, hbytes, hdec⟩ := tableBytes_decode h
  simp [decodeTableWord, hbytes, hdec]

/-- Settles O3: the three pairs are the encodings. -/
theorem opcodeMapDecodes : Obligations.OpcodeMapDecodes :=
  ⟨decode_encode_append .cpuid [], decode_encode_append .rdmsr [], decode_encode_append .wrmsr [],
    decodeTableWord_eq (by simp), decodeTableWord_eq (by simp), decodeTableWord_eq (by simp)⟩

/-- Bytes that were fetched and decode are the instruction that was fetched, in the state the bytes were read in. -/
theorem fetchInstr_of_bytes {s t : State} {bs rest : List Byte} {i : Instr} (hbytes : fetchBytes s = .ok bs t)
    (hdec : decode bs = .ok (i, rest)) : fetchInstr s = .ok i t := by
  simp [fetchInstr, hbytes, hdec]

/-- Settles O50: the step executes what the fetch decodes, and the fetch is a quiet change after the step's
beginning. -/
theorem stepRunsDecodedInstruction : Obligations.StepRunsDecodedInstruction := by
  intro s t bs rest i hdue hbytes hdec _
  have q : Quiet s.nextTurn t := (framed_fetchBytes s.nextTurn).of_eq_ok hbytes
  exact ⟨step_of_fetch hdue (fetchInstr_of_bytes hbytes hdec), q.sameRegisters_nextTurn, by simp [q.tlb], q.others,
    q.pending, q.stored, q.platform, q.readData⟩

end Sys2Proof.Machine
end

section
/-! CPUID: the two leaves and the feature bits of EDX (spec/40_cpuid.md R86; log 11). -/

namespace Sys2Proof.Machine

open Sys2Proof

/-- CPUID with `EAX = 1` answers the feature leaf (R86). -/
theorem exec_cpuid_leafOne {s : State} (heax : s.cpu.eax = 1#32) :
    exec .cpuid s = .next (cpuidLeafOne s).advance := if_pos heax

/-- CPUID with any other input answers four free values (R86; log 11). -/
theorem exec_cpuid_otherLeaf {s : State} (heax : s.cpu.eax ≠ 1#32) :
    exec .cpuid s = .next (cpuidOtherLeaf s).advance := if_neg heax

theorem getLsbD_setBit_same (w : Word) {i : Nat} (hi : i < 32) (b : Bool) :
    (setBit w i b).getLsbD i = b := by
  cases b <;> simp [setBit, hi]

theorem getLsbD_setBit_other (w : Word) {i j : Nat} (hij : i ≠ j) (b : Bool) :
    (setBit w j b).getLsbD i = w.getLsbD i := by
  have inWord : w.getLsbD i = true → i < 32 := BitVec.lt_of_getLsbD
  cases b <;> simpa [setBit, hij.symm] using inWord

theorem getLsbD_cpuidFeatureEdx_17 (pse36 pat : Bool) (leafEdx : Word) :
    (cpuidFeatureEdx pse36 pat leafEdx).getLsbD 17 = pse36 := by
  rw [cpuidFeatureEdx, getLsbD_setBit_other _ (by decide), getLsbD_setBit_same _ (by decide)]

theorem getLsbD_cpuidFeatureEdx_16 (pse36 pat : Bool) (leafEdx : Word) :
    (cpuidFeatureEdx pse36 pat leafEdx).getLsbD 16 = pat :=
  getLsbD_setBit_same _ (by decide) pat

theorem getLsbD_cpuidFeatureEdx_other (pse36 pat : Bool) (leafEdx : Word) {i : Nat} (h17 : i ≠ 17) (h16 : i ≠ 16) :
    (cpuidFeatureEdx pse36 pat leafEdx).getLsbD i = leafEdx.getLsbD i := by
  rw [cpuidFeatureEdx, getLsbD_setBit_other _ h16, getLsbD_setBit_other _ h17]

/-- Settles O5: the input selects the leaf, and this hardware has both features that EDX tells. -/
theorem cpuidCompletesWithFeatureBits : Obligations.CpuidCompletesWithFeatureBits := by
  refine fun s => ⟨fun heax => ?_, fun heax => ?_⟩
  · exact ⟨_, getLsbD_cpuidFeatureEdx_17 Config.hasPse36 Config.hasPat Config.cpuidLeaf1.edx,
      getLsbD_cpuidFeatureEdx_16 _ _ _, fun _ => getLsbD_cpuidFeatureEdx_other _ _ _, exec_cpuid_leafOne heax⟩
  · exact exec_cpuid_otherLeaf heax

end Sys2Proof.Machine
end

section
/-! RDMSR and WRMSR of the PAT: the fields WRMSR admits and the states the two leave (spec/41_msr_access.md R88 to
R90; log 14, log 20). -/

namespace Sys2Proof.Machine

open Sys2Proof

/-- The bytes that stand for a PAT type (R61). -/
theorem isSome_ofEncoding?_iff {b : Byte} :
    (PatType.ofEncoding? b).isSome = true ↔ b ∈ [0#8, 1#8, 4#8, 5#8, 6#8, 7#8] := by
  constructor
  · intro h
    obtain ⟨p, hp⟩ := Option.isSome_iff_exists.1 h
    rw [← ofEncoding?_eq_some.1 hp]
    cases p <;> decide
  · have defined : ∀ e ∈ [0#8, 1#8, 4#8, 5#8, 6#8, 7#8], (PatType.ofEncoding? e).isSome = true := by decide
    exact defined b

/-- A value is legal exactly where the whole byte of each of its eight fields is a defined encoding (R90). -/
theorem patValueLegal_iff {v : QWord} :
    patValueLegal v = true ↔ ∀ i < 8, patField v i ∈ [0#8, 1#8, 4#8, 5#8, 6#8, 7#8] := by
  simp only [patValueLegal, List.all_eq_true, List.mem_range, isSome_ofEncoding?_iff]

/-- At ring 0 with `ECX = 277H`, WRMSR of a value that is not legal raises general protection and leaves the state it
found (R90, R99; log 14). -/
theorem exec_wrmsr_illegal {s : State} (hcpl : s.cpu.cpl = 0#2) (hecx : s.cpu.ecx = patMsr)
    (hillegal : patValueLegal s.msrValue = false) :
    exec .wrmsr s = .fault (.exception (.generalProtection 0#32) s) := by
  simp [exec, execWrmsr, hcpl, hecx, hillegal, exceptionFault, afterException]

/-- Settles O7: eight defined fields make the value legal, and a legal value is written. -/
theorem wrmsrWritesLegalPat : Obligations.WrmsrWritesLegalPat := by
  intro s hcpl hecx hfields
  have hlegal : patValueLegal s.msrValue = true := patValueLegal_iff.2 hfields
  exact exec_wrmsr hcpl hecx hlegal

/-- Settles O8: one undefined field is enough for the value not to be legal. -/
theorem wrmsrBadFieldWritesNothing : Obligations.WrmsrBadFieldWritesNothing := by
  intro s i hcpl hecx hi hfield
  have hillegal : patValueLegal s.msrValue = false :=
    Bool.eq_false_iff.2 fun hlegal => hfield (patValueLegal_iff.1 hlegal i hi)
  exact exec_wrmsr_illegal hcpl hecx hillegal

/-- Settles O6: the pair of registers is written and `pc` advanced, and no other field. -/
theorem rdmsrReturnsPat : Obligations.RdmsrReturnsPat := fun _ hcpl hecx => exec_rdmsr hcpl hecx

end Sys2Proof.Machine
end

section
/-! The refusal of loads and stores while processors differ in their memory types (spec/60_exceptions.md R104;
spec/70_reset_and_hazards.md R110, R113; log 35). -/

namespace Sys2Proof.Machine

open Sys2Proof

/-! When processors differ. -/

theorem Cpu.typesDifferAt_iff {c d : Cpu} {pa : PhysAddr} :
    c.typesDifferAt d pa = true ↔
      c.pat ≠ d.pat ∨ c.olderPats ≠ [] ∨ d.olderPats ≠ [] ∨ c.mtrrEnabled ≠ d.mtrrEnabled ∨
        mtrrTypeAt c pa ≠ mtrrTypeAt d pa := by
  simp [Cpu.typesDifferAt, or_assoc]

theorem Cpu.typesDifferAt_eq_false_iff {c d : Cpu} {pa : PhysAddr} :
    c.typesDifferAt d pa = false ↔
      c.pat = d.pat ∧ c.olderPats = [] ∧ d.olderPats = [] ∧ c.mtrrEnabled = d.mtrrEnabled ∧
        mtrrTypeAt c pa = mtrrTypeAt d pa := by
  rw [← Bool.not_eq_true, Cpu.typesDifferAt_iff]
  simp only [not_or, not_not]

/-- The launch premise in the fields of the processors; that it is asked at every address matters for the MTRR type
only. -/
theorem State.sameMemoryTypes_iff {s : State} :
    s.sameMemoryTypes ↔
      ∀ c ∈ s.others, c.pat = s.cpu.pat ∧ c.olderPats = [] ∧ s.cpu.olderPats = [] ∧
        c.mtrrEnabled = s.cpu.mtrrEnabled ∧ ∀ pa, mtrrTypeAt c pa = mtrrTypeAt s.cpu pa := by
  refine forall₂_congr fun c _ => ⟨fun h => ?_, fun ⟨hpat, holder, hown, hen, htype⟩ pa => ?_⟩
  · obtain ⟨hpat, hown, holder, hen, _⟩ := Cpu.typesDifferAt_eq_false_iff.1 (h 0#36)
    refine ⟨hpat.symm, holder, hown, hen.symm, fun pa => ?_⟩
    obtain ⟨_, _, _, _, htype⟩ := Cpu.typesDifferAt_eq_false_iff.1 (h pa)
    exact htype.symm
  · exact Cpu.typesDifferAt_eq_false_iff.2 ⟨hpat.symm, hown, holder, hen.symm, (htype pa).symm⟩

/-- What an access leaves of caches and memory does not decide whether processors agree. -/
theorem Quiet.sameMemoryTypes {s t : State} (q : Quiet s t) (h : s.sameMemoryTypes) : t.sameMemoryTypes := by
  intro c hc pa
  have listed : c.withoutBytes ∈ s.others.map Cpu.withoutBytes := q.others ▸ List.mem_map_of_mem hc
  obtain ⟨d, hd, same⟩ := List.mem_map.1 listed
  calc t.cpu.typesDifferAt c pa
      = s.cpu.typesDifferAt c.withoutBytes pa := by rw [q.cpu]; rfl
    _ = s.cpu.typesDifferAt d.withoutBytes pa := by rw [same]
    _ = false := h d hd pa

/-! What else an access is refused for. -/

/-- The refusals that forming the parts of an access or moving its bytes can end in: the effective type (R65), the PAT
lookup (R24) and a device (R73). -/
def Refusal.OfAccess : Refusal → Prop
  | .cacheControl => True
  | .deviceAccess _ => True
  | .reservedPatField _ => True
  | .notModelled _ => False
  | .undecodable _ => False
  | .msrNotInSource _ => False
  | .selfModifying _ => False
  | .fetchWraps => False
  | .memoryTypesDiffer _ => False

/-- An operation is refused, if at all, as forming and moving an access can be. -/
def Res.RefusedAsAccess {α : Type} : Res α → Prop
  | .ok _ _ => True
  | .fault _ => True
  | .refused q => q.OfAccess

theorem Res.RefusedAsAccess.ne_memoryTypesDiffer {α : Type} {r : Res α} (h : r.RefusedAsAccess) (pa : PhysAddr) :
    r ≠ .refused (.memoryTypesDiffer pa) := by
  rintro rfl
  exact h

theorem Res.RefusedAsAccess.bind {α β : Type} {r : Res α} {k : α → State → Res β} (h : r.RefusedAsAccess)
    (hk : ∀ a t, (k a t).RefusedAsAccess) : (r.bind k).RefusedAsAccess := by
  cases r with
  | ok a t => exact hk a t
  | fault f => trivial
  | refused q => exact h

theorem refusedAsAccess_effectiveType (pa : PhysAddr) (page : Option PatType) (s : State) :
    (effectiveType pa page s).RefusedAsAccess := by
  unfold effectiveType
  split <;> trivial

theorem refusedAsAccess_patLookupIn (pat : QWord) (idx : BitVec 3) (s : State) :
    (patLookupIn pat idx s).RefusedAsAccess := by
  unfold patLookupIn
  split <;> trivial

theorem refusedAsAccess_accessPat (idx : BitVec 3) (p : PatType) (s : State) :
    (accessPat idx p s).RefusedAsAccess := by
  unfold accessPat
  split
  · trivial
  · split
    · exact refusedAsAccess_patLookupIn _ idx _
    · trivial

theorem refusedAsAccess_ifMemory {α : Type} (pa : PhysAddr) (s : State) {k : State → Res α}
    (h : (k s).RefusedAsAccess) : (ifMemory pa s k).RefusedAsAccess := by
  unfold ifMemory
  split
  · trivial
  · trivial
  · exact h

theorem refusedAsAccess_memoryByte (pa : PhysAddr) (s : State) : (memoryByte pa s).RefusedAsAccess := by
  unfold memoryByte
  split <;> trivial

theorem refusedAsAccess_copyOrMemory (l : CacheLine) (pa : PhysAddr) (s : State) :
    (copyOrMemory l pa s).RefusedAsAccess := by
  refine Res.RefusedAsAccess.bind trivial fun useCopy t => ?_
  split
  · trivial
  · exact refusedAsAccess_memoryByte pa t

theorem refusedAsAccess_ownOrElsewhere (pa : PhysAddr) (s : State) {own : State → Res Byte}
    (h : ∀ t, (own t).RefusedAsAccess) : (ownOrElsewhere pa s own).RefusedAsAccess := by
  unfold ownOrElsewhere
  split
  · exact h s
  · refine Res.RefusedAsAccess.bind trivial fun mine t => ?_
    split
    · exact h t
    · trivial

theorem refusedAsAccess_readChecked (pa : PhysAddr) (s : State) : (readChecked pa s).RefusedAsAccess := by
  unfold readChecked
  split
  · split
    · split
      · trivial
      · exact refusedAsAccess_copyOrMemory _ pa s
    · exact refusedAsAccess_memoryByte pa s
  · split <;> trivial

theorem refusedAsAccess_readUnchecked (pa : PhysAddr) (s : State) : (readUnchecked pa s).RefusedAsAccess := by
  unfold readUnchecked
  split
  · exact refusedAsAccess_memoryByte pa s
  · refine refusedAsAccess_ownOrElsewhere pa s fun t => Res.RefusedAsAccess.bind trivial fun check u => ?_
    split
    · exact refusedAsAccess_readChecked pa u
    · exact refusedAsAccess_memoryByte pa u

theorem refusedAsAccess_readCacheable (pa : PhysAddr) (ty : EffType) (s : State) :
    (readCacheable pa ty s).RefusedAsAccess := by
  refine refusedAsAccess_ownOrElsewhere pa s fun t => ?_
  split
  · split
    · trivial
    · exact refusedAsAccess_copyOrMemory _ pa t
  · exact (refusedAsAccess_memoryByte pa t).bind fun _ _ => trivial

/-- A read of a byte is refused at a device only (R73). -/
theorem refusedAsAccess_readByte (pa : PhysAddr) (ty : EffType) (s : State) : (readByte pa ty s).RefusedAsAccess := by
  refine refusedAsAccess_ifMemory pa s ?_
  cases ty with
  | ucPage => exact refusedAsAccess_readChecked pa s
  | ucMtrr | uc => exact refusedAsAccess_readUnchecked pa s
  | wc =>
    simp only [readBacked]
    split
    · exact refusedAsAccess_memoryByte pa s
    · trivial
  | wt | wp | wb => exact refusedAsAccess_readCacheable pa _ s

theorem refusedAsAccess_physRead (pa : PhysAddr) (n : Nat) (ty : EffType) (s : State) :
    (physRead pa n ty s).RefusedAsAccess := by
  induction n generalizing pa s with
  | zero => trivial
  | succ n ih => exact (refusedAsAccess_readByte pa ty s).bind fun _ t => (ih _ t).bind fun _ _ => trivial

theorem refusedAsAccess_writeToMemory (pa : PhysAddr) (v : Byte) (s : State) :
    (writeToMemory pa v s).RefusedAsAccess := by
  rcases writeToMemory_cases pa v s with h | h | h <;> rw [h] <;> trivial

theorem refusedAsAccess_writeUnchecked (pa : PhysAddr) (v : Byte) (s : State) :
    (writeUnchecked pa v s).RefusedAsAccess := by
  unfold writeUnchecked
  split <;> trivial

/-- A write of a byte is refused at a device only (R73). -/
theorem refusedAsAccess_writeByte (pa : PhysAddr) (ty : EffType) (v : Byte) (s : State) :
    (writeByte pa ty v s).RefusedAsAccess := by
  refine refusedAsAccess_ifMemory pa s ?_
  cases ty with
  | wb =>
    simp only [writeBacked]
    split
    · trivial
    · refine Res.RefusedAsAccess.bind trivial fun keep t => ?_
      split
      · trivial
      · exact refusedAsAccess_writeToMemory pa v t
  | wt =>
    refine (refusedAsAccess_writeToMemory pa v s).bind fun _ t => ?_
    split <;> trivial
  | wp => exact (refusedAsAccess_writeToMemory pa v s).bind fun _ _ => trivial
  | ucPage => trivial
  | ucMtrr | uc => exact refusedAsAccess_writeUnchecked pa v s
  | wc =>
    simp only [writeBacked]
    split <;> trivial

theorem refusedAsAccess_physWrite (pa : PhysAddr) (ty : EffType) (vs : List Byte) (s : State) :
    (physWrite pa ty vs s).RefusedAsAccess := by
  induction vs generalizing pa s with
  | nil => trivial
  | cons v vs ih => exact (refusedAsAccess_writeByte pa ty v s).bind fun _ t => ih _ t

theorem refusedAsAccess_freeBytes (n : Nat) (s : State) : (freeBytes n s).RefusedAsAccess := by
  induction n generalizing s with
  | zero => trivial
  | succ n ih => exact Res.RefusedAsAccess.bind trivial fun _ t => (ih t).bind fun _ _ => trivial

theorem refusedAsAccess_readParts (ps : List Part) (s : State) : (readParts ps s).RefusedAsAccess := by
  induction ps generalizing s with
  | nil => trivial
  | cons p ps ih =>
    refine Res.RefusedAsAccess.bind ?_ fun _ t => (ih t).bind fun _ _ => trivial
    refine (refusedAsAccess_physRead _ _ _ s).bind fun bs t => ?_
    split
    · exact refusedAsAccess_freeBytes _ t
    · trivial

theorem refusedAsAccess_writeParts (ps : List Part) (bs : List Byte) (s : State) :
    (writeParts ps bs s).RefusedAsAccess := by
  induction ps generalizing bs s with
  | nil => trivial
  | cons p ps ih =>
    have first : (writePart p bs s).RefusedAsAccess := (refusedAsAccess_physWrite _ _ _ s).bind fun _ _ => trivial
    exact first.bind fun _ t => ih _ t

/-! The paging structures and the walks. -/

theorem refusedAsAccess_structType (pa : PhysAddr) (idx : BitVec 3) (s : State) :
    (structType pa idx s).RefusedAsAccess :=
  (refusedAsAccess_patLookupIn _ idx s).bind fun p t =>
    (refusedAsAccess_accessPat idx p t).bind fun q u => refusedAsAccess_effectiveType pa (some q) u

theorem refusedAsAccess_readStruct (pa : PhysAddr) (n : Nat) (idx : BitVec 3) (s : State) :
    (readStruct pa n idx s).RefusedAsAccess := by
  refine (refusedAsAccess_structType pa idx s).bind fun ty t =>
    (refusedAsAccess_physRead pa n ty t).bind fun _ u => ?_
  split
  · exact refusedAsAccess_freeBytes n u
  · trivial

theorem refusedAsAccess_readEntry4 (pa : PhysAddr) (idx : BitVec 3) (s : State) :
    (readEntry4 pa idx s).RefusedAsAccess :=
  (refusedAsAccess_readStruct pa 4 idx s).bind fun _ _ => trivial

theorem refusedAsAccess_readEntry8 (pa : PhysAddr) (idx : BitVec 3) (s : State) :
    (readEntry8 pa idx s).RefusedAsAccess :=
  (refusedAsAccess_readStruct pa 8 idx s).bind fun _ _ => trivial

theorem refusedAsAccess_accessedDirtyUpdate (e : EntryRef) (access : Access) (completed : Bool) (s : State) :
    (accessedDirtyUpdate e access completed s).RefusedAsAccess := by
  simp only [accessedDirtyUpdate]
  split
  · trivial
  · exact (refusedAsAccess_structType _ _ s).bind fun ty t =>
      (refusedAsAccess_writeByte _ ty _ t).bind fun _ _ => trivial

theorem refusedAsAccess_accessedDirtyUpdates (es : List EntryRef) (access : Access) (completed : Bool) (s : State) :
    (accessedDirtyUpdates es access completed s).RefusedAsAccess := by
  induction es generalizing s with
  | nil => trivial
  | cons e es ih => exact (refusedAsAccess_accessedDirtyUpdate e access completed s).bind fun _ t => ih t

theorem refusedAsAccess_finishWalk (es : List EntryRef) (size : PageSize) (pa : PhysAddr) (idx : BitVec 3)
    (access : Access) (s : State) : (finishWalk es size pa idx access s).RefusedAsAccess :=
  (refusedAsAccess_accessedDirtyUpdates es access true s).bind fun _ t =>
    (refusedAsAccess_patLookupIn _ idx t).bind fun _ _ => trivial

theorem refusedAsAccess_failWalk {α : Type} (above : List EntryRef) (present reserved : Bool) (access : Access)
    (la : LinAddr) (s : State) : (failWalk above present reserved access la s : Res α).RefusedAsAccess :=
  (refusedAsAccess_accessedDirtyUpdates above access false s).bind fun _ _ => trivial

theorem refusedAsAccess_checkEntry {α : Type} (above : List EntryRef) (e : EntryRef) (reserved : Bool)
    (access : Access) (la : LinAddr) (s : State) {k : State → Res α} (h : (k s).RefusedAsAccess) :
    (checkEntry above e reserved access la s k).RefusedAsAccess := by
  unfold checkEntry
  split_ifs
  · exact refusedAsAccess_failWalk ..
  · exact refusedAsAccess_failWalk ..
  · exact refusedAsAccess_failWalk ..
  · exact h

theorem refusedAsAccess_walk32 (access : Access) (la : LinAddr) (s : State) :
    (walk32 access la s).RefusedAsAccess := by
  refine (refusedAsAccess_readEntry4 _ _ s).bind fun v t => ?_
  split
  · exact refusedAsAccess_checkEntry _ _ _ _ _ _ (refusedAsAccess_finishWalk ..)
  · exact refusedAsAccess_checkEntry _ _ _ _ _ _ <| (refusedAsAccess_readEntry4 _ _ t).bind fun _ _ =>
      refusedAsAccess_checkEntry _ _ _ _ _ _ (refusedAsAccess_finishWalk ..)

theorem refusedAsAccess_walkPaePte (pdpte pde : EntryRef) (access : Access) (la : LinAddr) (s : State) :
    (walkPaePte pdpte pde access la s).RefusedAsAccess :=
  (refusedAsAccess_readEntry8 _ _ s).bind fun _ _ =>
    refusedAsAccess_checkEntry _ _ _ _ _ _ (refusedAsAccess_finishWalk ..)

theorem refusedAsAccess_walkPaePde (pdpte : EntryRef) (access : Access) (la : LinAddr) (s : State) :
    (walkPaePde pdpte access la s).RefusedAsAccess := by
  refine (refusedAsAccess_readEntry8 _ _ s).bind fun v t => refusedAsAccess_checkEntry _ _ _ _ _ _ ?_
  split
  · exact refusedAsAccess_finishWalk ..
  · exact refusedAsAccess_walkPaePte _ _ _ _ t

theorem refusedAsAccess_walk (access : Access) (la : LinAddr) (s : State) : (walk access la s).RefusedAsAccess := by
  unfold walk
  split
  · exact (refusedAsAccess_readEntry8 _ _ s).bind fun _ t =>
      refusedAsAccess_checkEntry _ _ _ _ _ _ (refusedAsAccess_walkPaePde _ _ _ t)
  · exact refusedAsAccess_walk32 access la s

theorem refusedAsAccess_useTlbEntry (e : TlbEntry) (la : LinAddr) (s : State) :
    (useTlbEntry e la s).RefusedAsAccess := by
  unfold useTlbEntry
  refine Res.RefusedAsAccess.bind trivial fun old t => ?_
  split
  · trivial
  · exact (refusedAsAccess_patLookupIn _ _ t).bind fun _ _ => trivial

theorem refusedAsAccess_translate (access : Access) (la : LinAddr) (s : State) :
    (translate access la s).RefusedAsAccess := by
  rcases translate_cases access la s with ⟨_, h⟩ | ⟨_, h⟩ | ⟨_, h⟩ | ⟨_, e, _, _, h⟩ <;> rw [h]
  · trivial
  · exact refusedAsAccess_walk access la s
  · exact refusedAsAccess_walk access la s.drawn
  · exact refusedAsAccess_useTlbEntry e la s.drawn

theorem refusedAsAccess_accessPage (page : Option PageView) (s : State) : (accessPage page s).RefusedAsAccess := by
  unfold accessPage
  split
  · trivial
  · exact (refusedAsAccess_accessPat _ _ s).bind fun _ _ => trivial

/-- Forming the parts of an access does not look at other processors' memory types (log 35). -/
theorem refusedAsAccess_accessParts (access : Access) (fuel : Nat) (la : LinAddr) (n : Nat) (s : State) :
    (accessParts access fuel la n s).RefusedAsAccess := by
  induction fuel generalizing la n s with
  | zero => trivial
  | succ fuel ih =>
    simp only [accessParts]
    split
    · trivial
    · exact (refusedAsAccess_translate access la s).bind fun tr t =>
        (refusedAsAccess_accessPage tr.page t).bind fun _ u =>
          (refusedAsAccess_effectiveType _ _ u).bind fun _ w => (ih _ _ w).bind fun _ _ => trivial

/-! The refusal itself. -/

/-- A bind is refused exactly where one of its parts is. -/
theorem Res.bind_eq_refused {α β : Type} {r : Res α} {k : α → State → Res β} {q : Refusal} :
    r.bind k = .refused q ↔ r = .refused q ∨ ∃ a t, r = .ok a t ∧ k a t = .refused q := by
  cases r <;> simp [Res.bind]

/-- An access that is itself refused for other reasons only is refused as `memoryTypesDiffer` exactly where a
processor differs at one of the addresses (R104, R113). -/
theorem ifTypesAgree_differ_iff {α : Type} {as : List PhysAddr} {s : State} {k : State → Res α}
    (hk : (k s).RefusedAsAccess) :
    (∃ pa, ifTypesAgree as s k = .refused (.memoryTypesDiffer pa)) ↔
      ∃ pa ∈ as, ∃ c ∈ s.others, s.cpu.typesDifferAt c pa = true := by
  unfold ifTypesAgree
  split
  · rename_i pa found
    have differs : s.others.any (fun c => s.cpu.typesDifferAt c pa) = true := by simpa using List.find?_some found
    exact ⟨fun _ => ⟨pa, List.mem_of_find?_eq_some found, List.any_eq_true.1 differs⟩, fun _ => ⟨pa, rfl⟩⟩
  · rename_i notFound
    refine ⟨fun ⟨pa, h⟩ => absurd h (hk.ne_memoryTypesDiffer pa), fun ⟨pa, hpa, differs⟩ => ?_⟩
    exact absurd (List.any_eq_true.2 differs) (List.find?_eq_none.1 notFound pa hpa)

/-- A load or store, made of its parts and the moving of their bytes, is refused as `memoryTypesDiffer` exactly where a
processor differs, in the state the parts leave, at an address of one of them. -/
theorem partsThenAgree_differ_iff {α : Type} {parts : Res (List Part)} {move : List Part → State → Res α}
    (hparts : parts.RefusedAsAccess) (hmove : ∀ ps t, (move ps t).RefusedAsAccess) :
    (∃ pa, (parts.bind fun ps t => ifTypesAgree (ps.flatMap Part.physAddrs) t (move ps)) =
        .refused (.memoryTypesDiffer pa)) ↔
      ∃ ps t, parts = .ok ps t ∧
        ∃ part ∈ ps, ∃ pa ∈ part.physAddrs, ∃ c ∈ t.others, t.cpu.typesDifferAt c pa = true := by
  have atParts (ps : List Part) (t : State) :
      (∃ pa, ifTypesAgree (ps.flatMap Part.physAddrs) t (move ps) = .refused (.memoryTypesDiffer pa)) ↔
        ∃ part ∈ ps, ∃ pa ∈ part.physAddrs, ∃ c ∈ t.others, t.cpu.typesDifferAt c pa = true := by
    rw [ifTypesAgree_differ_iff (hmove ps t)]
    simp only [List.mem_flatMap]
    exact ⟨fun ⟨pa, ⟨part, hpart, hpa⟩, h⟩ => ⟨part, hpart, pa, hpa, h⟩,
      fun ⟨part, hpart, pa, hpa, h⟩ => ⟨pa, ⟨part, hpart, hpa⟩, h⟩⟩
  constructor
  · rintro ⟨pa, h⟩
    rcases Res.bind_eq_refused.1 h with h | ⟨ps, t, hps, h⟩
    · exact absurd h (hparts.ne_memoryTypesDiffer pa)
    · exact ⟨ps, t, hps, (atParts ps t).1 ⟨pa, h⟩⟩
  · rintro ⟨ps, t, rfl, differs⟩
    exact (atParts ps t).2 differs

theorem memRead_differ_iff {s : State} {la : LinAddr} {n : Nat} :
    (∃ pa, memRead la n s = .refused (.memoryTypesDiffer pa)) ↔
      ∃ ps t, accessParts .read n la n s = .ok ps t ∧
        ∃ part ∈ ps, ∃ pa ∈ part.physAddrs, ∃ c ∈ t.others, t.cpu.typesDifferAt c pa = true :=
  partsThenAgree_differ_iff (refusedAsAccess_accessParts ..) refusedAsAccess_readParts

theorem memWrite_differ_iff {s : State} {la : LinAddr} {bs : List Byte} :
    (∃ pa, memWrite la bs s = .refused (.memoryTypesDiffer pa)) ↔
      ∃ ps t, accessParts .write bs.length la bs.length s = .ok ps t ∧
        ∃ part ∈ ps, ∃ pa ∈ part.physAddrs, ∃ c ∈ t.others, t.cpu.typesDifferAt c pa = true :=
  partsThenAgree_differ_iff (refusedAsAccess_accessParts ..) fun ps => refusedAsAccess_writeParts ps bs

/-- Under the launch premise no processor differs in the state that the parts of an access leave. -/
theorem accessParts_not_differ {access : Access} {fuel n : Nat} {la : LinAddr} {s t : State} {ps : List Part}
    (hsame : s.sameMemoryTypes) (h : accessParts access fuel la n s = .ok ps t) {c : Cpu} {pa : PhysAddr}
    (hc : c ∈ t.others) : t.cpu.typesDifferAt c pa ≠ true := by
  have same : t.sameMemoryTypes := ((framed_accessParts access fuel la n s).of_eq_ok h).sameMemoryTypes hsame
  exact Bool.eq_false_iff.1 (same c hc pa)

/-- Settles O49: only the check of the memory types refuses so, and it looks at the addresses of the parts. -/
theorem differingTypesRefuseDataAccess : Obligations.DifferingTypesRefuseDataAccess := by
  refine ⟨fun s la n => memRead_differ_iff, fun s la bs => memWrite_differ_iff,
    fun s la n bs pa hsame => ⟨fun h => ?_, fun h => ?_⟩, fun c d pa => Cpu.typesDifferAt_iff,
    fun s => State.sameMemoryTypes_iff⟩
  · obtain ⟨ps, t, hparts, _, _, _, _, c, hc, differs⟩ := memRead_differ_iff.1 ⟨pa, h⟩
    exact accessParts_not_differ hsame hparts hc differs
  · obtain ⟨ps, t, hparts, _, _, _, _, c, hc, differs⟩ := memWrite_differ_iff.1 ⟨pa, h⟩
    exact accessParts_not_differ hsame hparts hc differs

end Sys2Proof.Machine
end

section
/-! The record of a page fault (spec/60_exceptions.md R93; log 12, log 13). -/

namespace Sys2Proof.Machine

open Sys2Proof

/-- Bits 1 and 2 of the error code (R93). -/
theorem pageFaultCode_access_bits (present reserved : Bool) (access : Access) (cpl : BitVec 2) :
    (pageFaultCode present reserved access cpl).getLsbD 1 = decide (access = .write) ∧
      (pageFaultCode present reserved access cpl).getLsbD 2 = decide (cpl = 3#2) := by
  simp only [pageFaultCode]
  generalize decide (cpl = 3#2) = user
  generalize decide (access = .write) = writes
  revert present reserved user writes
  decide

/-- Bits 31:4 of the error code are zero (R93): it is a value of four bits. -/
theorem toNat_pageFaultCode_lt (present reserved : Bool) (access : Access) (cpl : BitVec 2) :
    (pageFaultCode present reserved access cpl).toNat < 16 := by
  rw [pageFaultCode, BitVec.toNat_setWidth_of_le (by decide)]
  exact BitVec.isLt _

/-- Settles O60: each bit of the error code is its own condition. -/
theorem pageFaultRecord : Obligations.PageFaultRecord := by
  intro s present reserved access la
  obtain ⟨rsvd, p⟩ := pageFaultCode_bits present reserved access s.cpu.cpl
  obtain ⟨writes, user⟩ := pageFaultCode_access_bits present reserved access s.cpu.cpl
  exact ⟨pageFaultCode present reserved access s.cpu.cpl, rfl, p, by rw [writes, decide_eq_true_iff],
    by rw [user, decide_eq_true_iff], rsvd, toNat_pageFaultCode_lt _ _ _ _, rfl⟩

end Sys2Proof.Machine
end

section
/-! Live mappings of the page tables, the index of a shared entry, and the writes of control registers
(spec/70_reset_and_hazards.md R114, R116, R117; D16; log 24). -/

namespace Sys2Proof.Machine

open Sys2Proof

/-! Entries that a processor's tables hold. -/

/-- Memory lists every byte that has a value. -/
theorem Memory.mem_of_read {m : Memory} {a : Nat} {b : Byte} (h : m.read a = some b) : (a, b) ∈ m := by
  induction m with
  | nil => cases h
  | cons cell m ih =>
    obtain ⟨k, w⟩ := cell
    rw [Memory.read] at h
    split_ifs at h with hk
    · cases h
      exact hk ▸ List.mem_cons_self
    · exact List.mem_cons_of_mem _ (ih h)

/-- Where four bytes have a value, the lowest has. -/
theorem Memory.read_of_read4 {m : Memory} {a : Nat} {v : Word} (h : m.read4 a = some v) : ∃ b, m.read a = some b := by
  cases hb : m.read a with
  | none => simp [Memory.read4, hb] at h
  | some b => exact ⟨b, rfl⟩

/-- A present entry of a 4 KB structure is among its present entries, with its number. -/
theorem mem_presentEntries {m : Memory} {base i : Nat} {e : Word} (hi : i < 1024)
    (hread : m.read4 (base + 4 * i) = some e) (hpresent : e.getLsbD 0 = true) : (i, e) ∈ presentEntries m base := by
  obtain ⟨b, hb⟩ := Memory.read_of_read4 hread
  have inside : base ≤ base + 4 * i ∧ base + 4 * i < base + 4096 := by omega
  have present : entryPresent (e.setWidth 64) = true := by simpa [entryPresent] using hpresent
  refine List.mem_filterMap.2 ⟨_, Memory.mem_of_read hb, ?_⟩
  simp [inside, hread, present]

/-- The number of a directory entry places its page (R43, R44). -/
theorem pageStart_m4_eq (la : LinAddr) : BitVec.ofNat 32 (la.toNat / 2 ^ 22 * 2 ^ 22) = pageStart .m4 la := by
  have index := toNat_extractLsb'_top la (k := 22) (n := 10) (by omega)
  refine BitVec.eq_of_toNat_eq ?_
  have hla := la.isLt
  simp only [pageStart, toNat_append_eq_add, index, BitVec.toNat_ofNat]
  omega

/-- The addresses through a 4 MB entry are all in its page. -/
theorem address4M_same_page (pde : Word) (la lb : LinAddr) :
    (address4M pde la).toNat / 2 ^ 22 = (address4M pde lb).toNat / 2 ^ 22 := by
  rw [largePageAddressIsSum, largePageAddressIsSum]
  omega

/-- The mapping of a directory entry that maps a 4 MB page. -/
theorem entryMappings_large {c : Cpu} {pde : Word} (m : Memory) (i : Nat) (hpse : c.pse = true)
    (hps : pde.getLsbD 7 = true) (hres : pde.extractLsb' 17 5 = 0#5) :
    entryMappings c m i pde =
      [{ page := BitVec.ofNat 32 (i * 2 ^ 22), size := .m4, base := address4M pde 0#32,
         idx := largeIndex (pde.setWidth 64), pat := patType? c.pat (largeIndex (pde.setWidth 64)) }] := by
  have large : pdePs (pde.setWidth 64) = true := by simpa [pdePs] using hps
  have unreserved : reserved4M pde = false := by simp [reserved4M, hres]
  simp [entryMappings, hpse, large, unreserved]

theorem largeIndex_setWidth (pde : Word) :
    largeIndex (pde.setWidth 64) = patIndex (pde.getLsbD 12) (pde.getLsbD 4) (pde.getLsbD 3) := by
  simp [largeIndex, entryPcd, entryPwt]

/-- What the entries of a processor's page directory map is live while paging is enabled (R114). -/
theorem mem_liveMappings_of_directory {s : State} {c : Cpu} {la : LinAddr} {v : Word} {mp : Mapping}
    (hpg : c.pg = true) (hpae : c.pae = false) (hread : (s.tableView c).read4 (pdeAddress c.cr3 la).toNat = some v)
    (hpresent : v.getLsbD 0 = true) (hmp : mp ∈ entryMappings c (s.tableView c) (la.toNat / 2 ^ 22) v) :
    mp ∈ liveMappings s c := by
  have hla := la.isLt
  rw [toNat_pdeAddress] at hread
  have entry := mem_presentEntries (by omega) hread hpresent
  have held : mp ∈ tableEntries s c := by
    rw [tableEntries, if_neg (by simp [hpae])]
    exact List.mem_flatMap.2 ⟨_, entry, hmp⟩
  exact List.mem_append_right _ (by rwa [tablesOf, if_pos hpg])

/-- Settles O48: the entry is among the directory's present ones, and its one mapping is of the whole page. -/
theorem largePageMappingIsLive : Obligations.LargePageMappingIsLive := by
  intro s la v hpg hpae hpse hread hpresent hps hres
  refine ⟨_, mem_liveMappings_of_directory hpg hpae hread hpresent
    (entryMappings_large _ _ hpse hps hres ▸ List.mem_cons_self), ?_, pageStart_m4_eq la, rfl,
    largeIndex_setWidth v, congrArg (patType? s.cpu.pat) (largeIndex_setWidth v)⟩
  exact beq_iff_eq.2 (address4M_same_page v la 0#32)

/-! Shared entries and control registers. -/

/-- The top bit of an index is its PAT bit (R56). -/
theorem four_le_toNat_patIndex (pati pcd pwt : Bool) : 4 ≤ (patIndex pati pcd pwt).toNat ↔ pati = true := by
  revert pati pcd pwt
  decide

/-- Settles O25: the PAT bit of a page-table entry is the bit that is PS in a directory entry. -/
theorem sharedEntryPatBitIsPs : Obligations.SharedEntryPatBitIsPs :=
  fun v => four_le_toNat_patIndex (pdePs (v.setWidth 64)) _ _

/-- Settles O59: each write is one update of a register of the running processor. -/
theorem controlWritesKeepCachedState : Obligations.ControlWritesKeepCachedState :=
  fun _ _ _ => ⟨rfl, rfl, rfl, rfl⟩

end Sys2Proof.Machine
end

section
/-! What R115 waits for: what a step notes at its beginning, and what keeps it noted (spec/70_reset_and_hazards.md R115,
R119; log 25). -/

namespace Sys2Proof.Machine

open Sys2Proof

/-! What is noted at the beginning of a step. -/

theorem Mapping.frame?_eq {m : Mapping} {p : PatType} (h : m.pat = some p) :
    m.frame? = some { size := m.size, base := m.base, idx := m.idx, pat := p } := by
  simp [Mapping.frame?, h]

theorem Cpu.formsTypes_iff {c : Cpu} : c.formsTypes = true ↔ c.mtrrEnabled = true ∧ c.cd = false := by
  simp [Cpu.formsTypes]

/-- A live mapping of a type that is cacheable for reads is noted by a processor whose accesses have types. -/
theorem mem_noteCacheable {c : Cpu} {s : State} {m : Mapping} {p : PatType} (hforms : c.formsTypes = true)
    (hm : m ∈ liveMappings s c) (hpat : m.pat = some p) (hp : p = .wt ∨ p = .wp ∨ p = .wb) :
    { size := m.size, base := m.base, idx := m.idx, pat := p } ∈ (c.noteCacheable s).cacheable := by
  rw [Cpu.noteCacheable, if_pos hforms]
  refine mem_withNew.2 (.inr (List.mem_filter.2 ⟨List.mem_filterMap.2 ⟨m, hm, Mapping.frame?_eq hpat⟩, ?_⟩))
  rcases hp with rfl | rfl | rfl <;> rfl

/-- A mapping as WC, in a TLB or in tables, is one of the pages mapped as WC. -/
theorem mem_wcFrames {c : Cpu} {s : State} {m : Mapping} (hforms : c.formsTypes = true)
    (hm : m ∈ tlbMappings c ++ tableEntries s c) (hpat : m.pat = some .wc) :
    { size := m.size, base := m.base, idx := m.idx, pat := .wc } ∈ wcFrames s c := by
  rw [wcFrames, if_pos hforms]
  exact List.mem_filter.2 ⟨List.mem_filterMap.2 ⟨m, hm, Mapping.frame?_eq hpat⟩, rfl⟩

theorem mem_remapsNow {s : State} {cached : List MappedFrame} {c : Cpu} {w f : MappedFrame} (hc : c ∈ s.cpu :: s.others)
    (hw : w ∈ wcFrames s c) (hf : f ∈ cached) (h : w.remapsFrame f = true) : w ∈ remapsNow s cached := by
  have noted : ¬cached.isEmpty = true := by simpa using List.ne_nil_of_mem hf
  rw [remapsNow, if_neg noted]
  exact List.mem_filter.2 ⟨List.mem_flatMap.2 ⟨c, hc, hw⟩, List.any_eq_true.2 ⟨f, hf, h⟩⟩

/-- A page mapped as WC is noted as remapped at the beginning of a step, where some processor has noted a page that
shares bytes with it under another PAT index. -/
theorem mem_nextTurn_remaps_of_wc {s : State} {c d : Cpu} {w f : MappedFrame} (hc : c ∈ s.cpu :: s.others)
    (hw : w ∈ wcFrames s c) (hd : d ∈ s.cpu :: s.others) (hf : f ∈ d.cacheable) (h : w.remapsFrame f = true) :
    w ∈ s.nextTurn.remaps := by
  obtain ⟨fs, hnote, kept⟩ := d.noteCacheable_eq s
  have listed : Cpu.noteCacheable d s ∈ s.nextTurn.cpu :: s.nextTurn.others :=
    s.nextTurn_processors ▸ List.mem_map_of_mem hd
  have noted : f ∈ (Cpu.noteCacheable d s).cacheable := by
    rw [hnote]
    exact kept f hf
  exact mem_withNew.2 (.inr (mem_remapsNow hc hw (List.mem_flatMap.2 ⟨_, listed, noted⟩) h))

/-! What is noted stays noted. -/

/-- Every remapped page of `s` is noted in `t`, and every page that a processor of `s` may have used is noted by the
same processor in `t`, whichever of them runs. -/
structure State.KeepsNotes (s t : State) : Prop where
  remaps : ∀ m ∈ s.remaps, m ∈ t.remaps
  cacheable : ∀ c ∈ s.cpu :: s.others, ∃ d ∈ t.cpu :: t.others, d.id = c.id ∧ ∀ f ∈ c.cacheable, f ∈ d.cacheable

theorem State.KeepsNotes.trans {s t u : State} (h : s.KeepsNotes t) (k : t.KeepsNotes u) : s.KeepsNotes u where
  remaps m hm := k.remaps m (h.remaps m hm)
  cacheable c hc := by
    obtain ⟨d, hd, hid, hkeep⟩ := h.cacheable c hc
    obtain ⟨e, he, hid', hkeep'⟩ := k.cacheable d hd
    exact ⟨e, he, hid'.trans hid, fun f hf => hkeep' f (hkeep f hf)⟩

/-- The beginning of a step keeps what is noted. -/
theorem keepsNotes_nextTurn (s : State) : s.KeepsNotes s.nextTurn where
  remaps _ hm := State.mem_nextTurn_remaps hm
  cacheable c hc := by
    obtain ⟨fs, hnote, kept⟩ := c.noteCacheable_eq s
    exact ⟨_, s.nextTurn_processors ▸ List.mem_map_of_mem hc, by rw [hnote], by rwa [hnote]⟩

/-- The running processor's notes and the remapped pages are as they were. -/
structure State.SameNotes (s t : State) : Prop where
  remaps : t.remaps = s.remaps
  id : t.cpu.id = s.cpu.id
  cacheable : t.cpu.cacheable = s.cpu.cacheable

theorem Quiet.sameNotes {s t : State} (q : Quiet s t) : s.SameNotes t where
  remaps := q.remaps
  id := by rw [q.cpu]
  cacheable := by rw [q.cpu]

/-- Where no processor but for its cached bytes is another, what is noted is kept. -/
theorem State.SameNotes.keepsNotes {s t : State} (h : s.SameNotes t)
    (hothers : t.others.map Cpu.withoutBytes = s.others.map Cpu.withoutBytes) : s.KeepsNotes t where
  remaps _ hm := h.remaps ▸ hm
  cacheable c hc := by
    rcases List.mem_cons.1 hc with rfl | hc
    · exact ⟨t.cpu, List.mem_cons_self, h.id, fun f hf => h.cacheable ▸ hf⟩
    · have listed : c.withoutBytes ∈ t.others.map Cpu.withoutBytes := hothers ▸ List.mem_map_of_mem hc
      obtain ⟨d, hd, same⟩ := List.mem_map.1 listed
      have notes : d.cacheable = c.cacheable := (congrArg Cpu.cacheable same :)
      exact ⟨d, List.mem_cons_of_mem _ hd, (congrArg Cpu.id same :), fun f hf => notes ▸ hf⟩

/-- No event but FlushCaches and the choice of the running processor changes the processor's notes. -/
theorem applyEvent_sameNotes {e : Event} {s t : State} (h : applyEvent e s = .ok () t) (hflush : e ≠ .flushCaches)
    (hrun : ∀ k, e ≠ .run k) : s.SameNotes t := by
  cases e with
  | tlbFill access la =>
    cases h
    obtain ⟨u, tlb, q, hfill⟩ := s.tlbFill_quiet access la
    rw [hfill]
    exact ⟨q.sameNotes.remaps, q.sameNotes.id, q.sameNotes.cacheable⟩
  | cacheFill access la =>
    cases h
    exact (s.cacheFill_quiet access la).sameNotes
  | cacheDrop pa =>
    cases h
    exact (s.cacheDrop_quiet pa).sameNotes
  | flushTlb | tlbDrop | setCr0 | setCr3 | setCr4 | setMtrrDefType =>
    -- each writes other fields only
    cases h
    exact ⟨rfl, rfl, rfl⟩
  | memRead la n =>
    obtain ⟨bs, u, hread, ht⟩ := Res.bind_eq_ok.1 h
    cases ht
    have q : Quiet s u := (framed_memRead la n s).of_eq_ok hread
    exact ⟨q.sameNotes.remaps, q.sameNotes.id, q.sameNotes.cacheable⟩
  | memWrite la bs =>
    obtain ⟨as, q⟩ := memWrite_quiet h
    exact ⟨q.sameNotes.remaps, q.sameNotes.id, q.sameNotes.cacheable⟩
  | flushCaches => exact absurd rfl hflush
  | run k => exact absurd rfl (hrun k)

/-- The choice of the running processor takes the notes of each along. -/
theorem keepsNotes_runProcessor (s : State) (k : Nat) : s.KeepsNotes (s.runProcessor k) where
  remaps m hm := by
    unfold State.runProcessor
    split <;> exact hm
  cacheable c hc := ⟨c, (s.runProcessor_perm k).mem_iff.2 hc, rfl, fun _ hf => hf⟩

theorem applyEvent_keepsNotes {e : Event} {s t : State} (h : applyEvent e s = .ok () t) (hflush : e ≠ .flushCaches) :
    s.KeepsNotes t := by
  by_cases hrun : ∀ k, e ≠ .run k
  · exact (applyEvent_sameNotes h hflush hrun).keepsNotes (applyEvent_others h hrun)
  · obtain ⟨k, hk⟩ := not_forall_not.1 hrun
    subst hk
    cases h
    exact keepsNotes_runProcessor s k

/-- An instruction changes no notes. -/
theorem exec_keepsNotes {i : Instr} {s t : State} (h : exec i s = .next t) : s.KeepsNotes t := by
  obtain ⟨_, others, _, remaps, _, _, _, id, _, _, _, _, _, _, _, _, _, cacheable, _⟩ := instructionFrame i s t h
  exact State.SameNotes.keepsNotes ⟨remaps, id, cacheable⟩ (congrArg _ others)

/-- A step that is not FlushCaches keeps what is noted. -/
theorem step_keepsNotes {s t : State} (h : step s = .next t)
    (hflush : ∀ rest, s.pending ≠ .event .flushCaches :: rest) : s.KeepsNotes t := by
  refine (keepsNotes_nextTurn s).trans ?_
  rcases step_next_cases h with ⟨e, rest, hpend, hevent⟩ | ⟨_, i, u, hfetch, hexec⟩
  · exact applyEvent_keepsNotes hevent fun he => hflush rest (he ▸ hpend)
  · have q : Quiet s.nextTurn u := (framed_fetchInstr s.nextTurn).of_eq_ok hfetch
    exact (q.sameNotes.keepsNotes q.others).trans (exec_keepsNotes hexec)

/-- Settles O45: a step notes at its beginning only, and nothing but FlushCaches takes a note away. -/
theorem remapIsNotedUntilFlush : Obligations.RemapIsNotedUntilFlush := by
  refine ⟨fun s i c hc => ?_, fun s => ?_, fun s c d m f w hc hen hcd hm hpat hw hd hf hidx hshare => ?_,
    fun s t h hflush => ?_⟩
  · obtain ⟨fs, hnote, kept⟩ := c.noteCacheable_eq s
    refine ⟨fs, ?_, kept, fun m p hen hcd hm hpat hp => ?_⟩
    · rw [State.nextTurn_processors, List.getElem?_map, hc, Option.map_some, hnote]
    · have noted := mem_noteCacheable (Cpu.formsTypes_iff.2 ⟨hen, hcd⟩) hm hpat hp
      rwa [hnote] at noted
  · exact ⟨rfl, rfl, rfl, rfl, rfl, List.length_map _, fun _ => State.mem_nextTurn_remaps⟩
  · subst hw
    exact mem_nextTurn_remaps_of_wc hc (mem_wcFrames (Cpu.formsTypes_iff.2 ⟨hen, hcd⟩) hm hpat) hd hf
      (remapsFrame_iff.2 ⟨hidx, hshare⟩)
  · have keeps := step_keepsNotes h hflush
    exact ⟨keeps.remaps, keeps.cacheable⟩

end Sys2Proof.Machine
end

section
/-! Accesses whose result aliasing or a remapping as WC leaves undefined (spec/70_reset_and_hazards.md R114, R115;
log 24, log 25, log 35). -/

namespace Sys2Proof.Machine

open Sys2Proof

/-! What makes an access undefined. -/

/-- Without the MTRRs, or with CD = 1, every access of a processor is UC (R65, R66). -/
theorem effectiveType?_of_not_forms {c : Cpu} (pa : PhysAddr) (page : Option PatType)
    (h : c.mtrrEnabled = false ∨ c.cd = true) : effectiveType? c pa page = some .uc := by
  rcases h with hen | hcd
  · simp [effectiveType?, hen]
  · simp [effectiveType?, hcd]

/-- The use that a live mapping of a processor makes of a page it reaches is one of those an access looks at, where some
use has a type other than UC. -/
theorem mem_accessUses {s : State} {i : Nat} {c d : Cpu} {m : Mapping} {pa : PhysAddr} {page : Option PatType}
    (own : Option Mapping) (hc : (s.cpu :: s.others)[i]? = some c) (hm : m ∈ liveMappings s c)
    (hreach : m.reaches pa = true) (hd : d ∈ s.cpu :: s.others) (htype : effectiveType? d pa page ≠ some .uc) :
    pageUse c i pa m ∈ accessUses s own pa := by
  have formed : ¬(s.cpu :: s.others).all (fun c => !c.mtrrEnabled || c.cd) = true := fun hall =>
    htype (effectiveType?_of_not_forms pa page (by simpa using List.all_eq_true.1 hall d hd))
  rw [accessUses, if_neg formed]
  exact List.mem_append_right _ (List.mem_flatMap.2 ⟨(c, i), List.mk_mem_zipIdx_iff_getElem?.2 hc,
    List.mem_map_of_mem (List.mem_filter.2 ⟨hm, hreach⟩)⟩)

theorem pageUse_type {c : Cpu} {m : Mapping} {p : PatType} (i : Nat) (pa : PhysAddr) (hpat : m.pat = some p) :
    (pageUse c i pa m).type = effectiveType? c pa (some p) := by
  simp [pageUse, hpat]

theorem State.cachesHold_iff {s : State} {size : PageSize} {pa : PhysAddr} :
    s.cachesHold size pa = true ↔ ∃ c ∈ s.cpu :: s.others, ∃ l ∈ c.cache,
      l.addr.toNat / 2 ^ pageBits size = pa.toNat / 2 ^ pageBits size := by
  simp only [State.cachesHold, List.any_eq_true, beq_iff_eq]

/-- Two live mappings, not one and the same, that give a byte different types make an access to it undefined (R114). -/
theorem undefinedAt_of_aliased {s : State} {i j : Nat} {c d : Cpu} {m k : Mapping} {p q : PatType} {pa : PhysAddr}
    (own : Option Mapping) (hc : (s.cpu :: s.others)[i]? = some c) (hd : (s.cpu :: s.others)[j]? = some d)
    (hm : m ∈ liveMappings s c) (hk : k ∈ liveMappings s d) (hmr : m.reaches pa = true) (hkr : k.reaches pa = true)
    (hmp : m.pat = some p) (hkp : k.pat = some q)
    (htypes : effectiveType? c pa (some p) ≠ effectiveType? d pa (some q)) (hother : i ≠ j ∨ m.same k = false) :
    undefinedAt s own pa = true := by
  have formed : ∃ e ∈ s.cpu :: s.others, ∃ page, effectiveType? e pa page ≠ some .uc := by
    by_cases huc : effectiveType? c pa (some p) = some .uc
    · exact ⟨d, List.mem_of_getElem? hd, some q, fun h => htypes (huc.trans h.symm)⟩
    · exact ⟨c, List.mem_of_getElem? hc, some p, huc⟩
  obtain ⟨e, he, page, htype⟩ := formed
  have conflict : (pageUse c i pa m).conflicts (pageUse d j pa k) = true := by
    have different : ((i == j) && m.same k) = false := by
      rcases hother with hij | hsame
      · simp [hij]
      · simp [hsame]
    rw [PageUse.conflicts, pageUse_type i pa hmp, pageUse_type j pa hkp, decide_eq_true htypes, Bool.true_and,
      Bool.not_eq_true']
    exact different
  have isAliased : aliased (accessUses s own pa) = true :=
    List.any_eq_true.2 ⟨_, mem_accessUses own hc hm hmr he htype,
      List.any_eq_true.2 ⟨_, mem_accessUses own hd hk hkr he htype, conflict⟩⟩
  simp [undefinedAt, isAliased]

/-- A live mapping as WC of a page of which some caches hold a byte makes an access to it undefined (R115). -/
theorem undefinedAt_of_stale {s : State} {c : Cpu} {m : Mapping} {p : PatType} {pa : PhysAddr} (own : Option Mapping)
    (hc : c ∈ s.cpu :: s.others) (hm : m ∈ liveMappings s c) (hreach : m.reaches pa = true) (hpat : m.pat = some p)
    (htype : effectiveType? c pa (some p) = some .wc) (hheld : s.cachesHold m.size pa = true) :
    undefinedAt s own pa = true := by
  obtain ⟨i, hi⟩ := List.getElem?_of_mem hc
  have use := mem_accessUses own hi hm hreach hc (page := some p) (by simp [htype])
  have stale : staleUnderWc s (accessUses s own pa) pa = true :=
    List.any_eq_true.2 ⟨_, use, Bool.and_eq_true_iff.2 ⟨decide_eq_true ((pageUse_type i pa hpat).trans htype), hheld⟩⟩
  simp [undefinedAt, stale]

/-- A page noted as remapped to WC, of which some processor may have used bytes as cacheable without a flush since,
makes an access to it undefined (R115; log 25). -/
theorem undefinedAt_of_remapping {s : State} {c : Cpu} {m f : MappedFrame} {pa : PhysAddr} (own : Option Mapping)
    (hm : m ∈ s.remaps) (hc : c ∈ s.cpu :: s.others) (hf : f ∈ c.cacheable) (hreach : m.reaches pa = true)
    (hremap : m.remapsFrame f = true) (hwc : m.typeAt s.cpu pa = .wc)
    (hcacheable : (f.typeAt c (if f.reaches pa then pa else f.base)).properties.cacheableReads = true) :
    undefinedAt s own pa = true := by
  have waits : s.remapping pa = true := by
    refine List.any_eq_true.2 ⟨m, hm, ?_⟩
    rw [hreach, hwc, decide_eq_true rfl, Bool.true_and, Bool.true_and]
    exact List.any_eq_true.2 ⟨c, hc, List.any_eq_true.2 ⟨f, hf, by rw [hremap, hcacheable, Bool.true_and]⟩⟩
  simp [undefinedAt, waits]

theorem mem_physSpan {pa a : PhysAddr} {n : Nat} : a ∈ physSpan pa n ↔ ∃ i < n, a = pa + BitVec.ofNat 36 i := by
  simp [physSpan, eq_comm]

/-- An access is undefined if one of its bytes is, whatever mapping it uses itself. -/
theorem undefinedAccess_of_undefinedAt {s : State} {la : LinAddr} {pa a : PhysAddr} {n : Nat} {page : Option PageView}
    {ty : EffType} (ha : a ∈ physSpan pa n) (h : ∀ own, undefinedAt s own a = true) :
    undefinedAccess s la pa n page ty = true := by
  refine List.any_eq_true.2 ⟨a, ha, ?_⟩
  cases page with
  | none => exact h none
  | some v => simp only [h, Bool.true_or]

/-- An access of type WC is undefined if some caches hold a byte of the page of one of its bytes (R115). -/
theorem undefinedAccess_of_wc {s : State} {la : LinAddr} {pa a : PhysAddr} {n : Nat} {v : PageView}
    (ha : a ∈ physSpan pa n) (h : s.cachesHold v.size a = true) :
    undefinedAccess s la pa n (some v) .wc = true :=
  List.any_eq_true.2 ⟨a, ha, by simp [h]⟩

/-! Loads. -/

/-- The state after `n` free values are drawn. -/
def State.drawnMany (s : State) (n : Nat) : State := { s with freeCount := s.freeCount + n }

/-- Free bytes are the next ones of the open sequence. -/
theorem freeBytes_eq (n : Nat) (s : State) :
    freeBytes n s = .ok ((List.range n).map fun i => Config.freeByte (s.freeCount + i)) (s.drawnMany n) := by
  induction n generalizing s with
  | zero => rfl
  | succ n ih =>
    have later : (List.range n).map (fun i => Config.freeByte (s.drawn.freeCount + i)) =
        (List.range n).map fun i => Config.freeByte (s.freeCount + (i + 1)) :=
      List.map_congr_left fun i _ => by rw [State.drawn_freeCount, Nat.add_assoc, Nat.add_comm 1]
    have count : s.drawn.drawnMany n = s.drawnMany (n + 1) := by
      simp [State.drawnMany, State.drawn, Nat.add_assoc, Nat.add_comm 1]
    simp only [freeBytes, freeByte, Res.bind_ok, ih, later, count, List.range_succ_eq_map, List.map_cons, List.map_map]
    rfl

/-- A load within one page that is undefined gives free bytes, where its bytes can be read. -/
theorem memRead_undefined {s t u : State} {la : LinAddr} {n : Nat} {p : Part} {bs : List Byte}
    (hparts : accessParts .read n la n s = .ok [p] t) (hundef : p.undef = true)
    (hread : physRead p.pa p.size p.type t = .ok bs u) (hsame : t.sameMemoryTypes) :
    memRead la n s = .ok ((List.range p.size).map fun i => Config.freeByte (u.freeCount + i)) (u.drawnMany p.size) := by
  rw [memRead_of_parts hparts hsame, readParts_singleton, readPart, hread, Res.bind_ok, if_pos hundef, freeBytes_eq]

/-! Stores. -/

/-- A write of a byte that memory backs completes under every type. -/
theorem writeByte_completes {s : State} {pa : PhysAddr} (ty : EffType) (v : Byte)
    (hback : s.platform.backing? pa.toNat = some .memory) : ∃ t, writeByte pa ty v s = .ok () t := by
  have through (s : State) : ∃ t, writeToMemory pa v s = .ok () t := by
    rcases writeToMemory_cases pa v s with h | h | h <;> exact ⟨_, h⟩
  have unchecked : ∃ t, writeUnchecked pa v s = .ok () t := by
    unfold writeUnchecked
    split <;> exact ⟨_, rfl⟩
  obtain ⟨t, ht⟩ := through s
  rw [writeByte_backed ty v hback]
  cases ty with
  | wb =>
    simp only [writeBacked, freeBool, Res.bind_ok]
    split
    · exact ⟨_, rfl⟩
    · split
      · exact ⟨_, rfl⟩
      · exact through s.drawn
  | wt =>
    simp only [writeBacked, ht, Res.bind_ok]
    split <;> exact ⟨_, rfl⟩
  | wp => simp only [writeBacked, ht, Res.bind_ok, Res.ok.injEq, true_and, exists_eq']
  | ucPage => exact ⟨_, rfl⟩
  | ucMtrr => exact unchecked
  | uc => exact unchecked
  | wc =>
    simp only [writeBacked]
    split <;> exact ⟨_, rfl⟩

/-- A write of bytes that memory backs completes. -/
theorem physWrite_completes {bs : List Byte} {s : State} {pa : PhysAddr} (ty : EffType)
    (hback : ∀ i < bs.length, s.platform.backing? (pa + BitVec.ofNat 36 i).toNat = some .memory) :
    ∃ u, physWrite pa ty bs s = .ok () u := by
  induction bs generalizing s pa with
  | nil => exact ⟨s, rfl⟩
  | cons v vs ih =>
    obtain ⟨t, hfirst⟩ := writeByte_completes ty v (by simpa using hback 0 (Nat.succ_pos _))
    have q : Quiet s t := (framed_writeByte pa ty v s).of_eq_ok hfirst
    obtain ⟨u, hrest⟩ := ih (s := t) (pa := pa + 1#36) fun i hi => by
      rw [physAddr_succ, q.platform]
      exact hback (i + 1) (Nat.succ_lt_succ hi)
    exact ⟨u, by rw [physWrite, hfirst, Res.bind_ok, hrest]⟩

theorem State.undefineBytes_read_other {s : State} {pas : List PhysAddr} {a : Nat} (h : ∀ pa ∈ pas, a ≠ pa.toNat) :
    (s.undefineBytes pas).mem.read a = s.mem.read a := by
  induction pas generalizing s with
  | nil => rfl
  | cons pa pas ih =>
    obtain ⟨first, rest⟩ := List.forall_mem_cons.1 h
    exact (ih rest).trans (s.undefineByte_read_other pa first)

/-- Each byte left undefined has a free value: the one it got first or, where an address occurs again, a later one. -/
theorem State.undefineBytes_read_free {s : State} {pas : List PhysAddr} {pa : PhysAddr} (h : pa ∈ pas) :
    ∃ k, (s.undefineBytes pas).mem.read pa.toNat = some (Config.freeByte k) := by
  induction pas generalizing s with
  | nil => cases h
  | cons b pas ih =>
    by_cases again : pa ∈ pas
    · exact ih again
    · have first : pa = b := (List.mem_cons.1 h).resolve_right again
      subst first
      have last : ∀ b ∈ pas, pa.toNat ≠ b.toNat := fun b hb heq => again (BitVec.eq_of_toNat_eq heq ▸ hb)
      exact ⟨s.freeCount, (undefineBytes_read_other last).trans (s.mem.read_write_same _ _)⟩

/-- An undefined part whose bytes are written leaves a free value at each of its addresses, and notes them. -/
theorem writePart_undefined {p : Part} {bs : List Byte} {s u : State} (hundef : p.undef = true)
    (hw : physWrite p.pa p.type (bs.take p.size) s = .ok () u) :
    writePart p bs s = .ok () ((u.undefineBytes p.physAddrs).noteStored p.addresses) := by
  simp [writePart, hw, hundef]

/-- Settles O44: a hazard at one byte of the access makes its one part undefined; an undefined part is read as free
bytes and written as free bytes. -/
theorem aliasedAccessIsFree : Obligations.AliasedAccessIsFree := by
  refine ⟨fun s r t u la n x tr page ty a bs hone htr hpage hty hread hsame hx ha hazard => ?_,
    fun s t la bs tr page ty hbs hone hopens hundef hsame hback => ?_⟩
  · have inSpan : a ∈ physSpan tr.pa n := mem_physSpan.2 ⟨x, hx, ha⟩
    have undef : undefinedAccess t la tr.pa n page ty = true := by
      rcases hazard with ⟨i, j, c, d, m, k, p, q, hc, hd, hm, hk, hmr, hkr, hmp, hkp, htypes, hother⟩ |
        ⟨c, hc, m, hm, p, hreach, hpat, htype, hheld⟩ |
        ⟨m, hm, c, hc, f, hf, hreach, hidx, hshare, hwc, hcacheable⟩ | ⟨rfl, v, rfl, hheld⟩
      · exact undefinedAccess_of_undefinedAt inSpan fun own =>
          undefinedAt_of_aliased own hc hd hm hk hmr hkr hmp hkp htypes hother
      · exact undefinedAccess_of_undefinedAt inSpan fun own =>
          undefinedAt_of_stale own hc hm hreach hpat htype (State.cachesHold_iff.2 hheld)
      · exact undefinedAccess_of_undefinedAt inSpan fun own =>
          undefinedAt_of_remapping own hm hc hf hreach (remapsFrame_iff.2 ⟨hidx, hshare⟩) hwc hcacheable
      · exact undefinedAccess_of_wc inSpan (State.cachesHold_iff.2 hheld)
    have opens : s.opens .read la tr page ty t := ⟨r, htr, hpage, hty⟩
    have parts := accessParts_one opens (Nat.zero_lt_of_lt hx) hone
    rw [undef] at parts
    exact ⟨parts, u.drawnMany n, memRead_undefined parts rfl hread hsame, rfl, rfl, rfl⟩
  · obtain ⟨u, hw⟩ := physWrite_completes ty hback
    have parts := accessParts_one hopens (List.length_pos_iff.2 hbs) hone
    have q : Quiet t u := (framed_physWrite tr.pa ty bs t).of_eq_ok hw
    refine ⟨(u.undefineBytes (physSpan tr.pa bs.length)).noteStored
      ((List.range bs.length).map fun i => (tr.pa + BitVec.ofNat 36 i).toNat), ?_, ?_, fun i hi => ?_, fun b hb => ?_⟩
    · rw [memWrite_of_parts parts hsame, writeParts, writePart_undefined hundef (by rwa [List.take_length]),
        Part.addresses_eq]
      rfl
    · rw [State.noteStored_stored, (Quiet.undefineBytes u _).stored, q.stored]
    · exact State.undefineBytes_read_free (mem_physSpan.2 ⟨i, hi, rfl⟩)
    · have outside : ∀ pa ∈ physSpan tr.pa bs.length, b ≠ pa.toNat := fun pa hpa => by
        obtain ⟨i, hi, rfl⟩ := mem_physSpan.1 hpa
        exact hb i hi
      exact (State.undefineBytes_read_other outside).trans (physWrite_read_other hw hb)

end Sys2Proof.Machine
end
